-- ==== Sys2Proof/Word.lean ====
section
/-!
DEFINITION. The two word types of the block: a byte of the 8-bit bus and a 16-bit address or pair (00_scope R11).
-/

namespace Sys2Proof

/-- A byte: the width of a bus access and of a register (00_scope R11). -/
abbrev Byte := BitVec 8

/-- A 16-bit value: an address, a register pair, SP or PC (00_scope R11). -/
abbrev Word := BitVec 16

end Sys2Proof
end

