-- ==== Sys2Proof/Machine/Bits.lean ====
section
/-!
DEFINITION. The bit-field, byte-order and extension helpers that decoding and execution share (00_scope R13, R17; 30_encoding R164).
-/

namespace Sys2Proof

/-- `v[15:8]`. -/
def hiByte (v : Word) : Byte := v.extractLsb' 8 8

/-- `v[7:0]`. -/
def loByte (v : Word) : Byte := v.extractLsb' 0 8

/-- `{hi, lo}` (00_scope R13). -/
def wordOf (hi lo : Byte) : Word := hi ++ lo

/-- `zext_16` (00_scope R17). -/
def zext16 (b : Byte) : Word := b.setWidth 16

/-- `sext_16` (00_scope R17): `e + (e[7] ? 0xFF00 : 0)`. -/
def sext16 (e : Byte) : Word := if e.getLsbD 7 then zext16 e + 0xFF00#16 else zext16 e

/-- The field in bits 5:3 of an opcode: ddd, ttt, bbb (30_encoding R164). -/
def field53 (op : Byte) : BitVec 3 := op.extractLsb' 3 3

/-- The field in bits 2:0 of an opcode: sss (30_encoding R164). -/
def field20 (op : Byte) : BitVec 3 := op.extractLsb' 0 3

/-- The field in bits 5:4 of an opcode: rr, qq (30_encoding R164). -/
def field54 (op : Byte) : BitVec 2 := op.extractLsb' 4 2

/-- The field in bits 4:3 of an opcode: cc (30_encoding R164). -/
def field43 (op : Byte) : BitVec 2 := op.extractLsb' 3 2

end Sys2Proof
end

