-- ==== Sys2Proof/Syntax.lean ====
section
/-!
DEFINITION. The instructions of the block: one constructor for each row of opcode_table.json, in the table's order (30_encoding R166,
R178). A term carries the fields of the opcode byte and the immediates that follow it (30_encoding R173; log entry 9); the value of R178,
without the immediates, is `Instr.value` of Decode.lean.
-/

namespace Sys2Proof

/-- The seven general registers (10_state R42). -/
inductive Reg where
  | a | b | c | d | e | h | l
  deriving DecidableEq, Repr

/-- The operand of a 3-bit field: a register, or the byte at HL (10_state R49). -/
inductive R8 where
  | reg (r : Reg)
  | ind
  deriving DecidableEq, Repr

/-- The three named pairs (10_state R45). -/
inductive Pair where
  | bc | de | hl
  deriving DecidableEq, Repr

/-- The operand of a 2-bit field `rr`: a pair or SP (10_state R50). -/
inductive R16 where
  | pair (p : Pair)
  | sp
  deriving DecidableEq, Repr

/-- The operand of a 2-bit field `qq`: a pair or AF (10_state R51). -/
inductive StkPair where
  | pair (p : Pair)
  | af
  deriving DecidableEq, Repr

/-- The condition of a 2-bit field `cc` (10_state R52). -/
inductive Cond where
  | nz | z | nc | c
  deriving DecidableEq, Repr

/-- The instructions (opcode_table.json; 40_load8 to 46_system). -/
inductive Instr where
  /-- `LD r, r'` (R201). -/
  | ldRR (d r : R8)
  /-- `LD r, n` (R202). -/
  | ldRN (d : R8) (n : Byte)
  /-- `LD r, (HL)` (R203). -/
  | ldRHl (d : R8)
  /-- `LD (HL), r` (R204). -/
  | ldHlR (r : R8)
  /-- `LD (HL), n` (R205). -/
  | ldHlN (n : Byte)
  /-- `LD A, (BC)` (R206). -/
  | ldABc
  /-- `LD A, (DE)` (R207). -/
  | ldADe
  /-- `LD (BC), A` (R208). -/
  | ldBcA
  /-- `LD (DE), A` (R209). -/
  | ldDeA
  /-- `LD A, (nn)` (R210). -/
  | ldANn (nn : Word)
  /-- `LD (nn), A` (R211). -/
  | ldNnA (nn : Word)
  /-- `LDH A, (n)` (R212). -/
  | ldhAN (n : Byte)
  /-- `LDH (n), A` (R213). -/
  | ldhNA (n : Byte)
  /-- `LDH A, (C)` (R214). -/
  | ldhAC
  /-- `LDH (C), A` (R215). -/
  | ldhCA
  /-- `LD (HL+), A` (R216). -/
  | ldHliA
  /-- `LD A, (HL+)` (R217). -/
  | ldAHli
  /-- `LD (HL-), A` (R218). -/
  | ldHldA
  /-- `LD A, (HL-)` (R219). -/
  | ldAHld
  /-- `LD rr, nn` (R241). -/
  | ldRrNn (rr : R16) (nn : Word)
  /-- `LD (nn), SP` (R242). -/
  | ldNnSp (nn : Word)
  /-- `LD SP, HL` (R243). -/
  | ldSpHl
  /-- `LD HL, SP+e` (R244). -/
  | ldHlSpE (e : Byte)
  /-- `PUSH rr` (R245). -/
  | pushRr (qq : StkPair)
  /-- `PUSH AF` (R246). -/
  | pushAf
  /-- `POP AF` (R247). -/
  | popAf
  /-- `POP rr` (R248). -/
  | popRr (qq : StkPair)
  /-- `ADD A, r` (R261). -/
  | addAR (r : R8)
  /-- `ADD A, (HL)` (R262). -/
  | addAHl
  /-- `ADD A, n` (R263). -/
  | addAN (n : Byte)
  /-- `ADC A, r` (R264). -/
  | adcAR (r : R8)
  /-- `ADC A, (HL)` (R265). -/
  | adcAHl
  /-- `ADC A, n` (R266). -/
  | adcAN (n : Byte)
  /-- `SUB r` (R267). -/
  | subR (r : R8)
  /-- `SUB (HL)` (R268). -/
  | subHl
  /-- `SUB n` (R269). -/
  | subN (n : Byte)
  /-- `SBC A, r` (R270). -/
  | sbcAR (r : R8)
  /-- `SBC A, (HL)` (R271). -/
  | sbcAHl
  /-- `SBC A, n` (R272). -/
  | sbcAN (n : Byte)
  /-- `AND r` (R273). -/
  | andR (r : R8)
  /-- `AND (HL)` (R274). -/
  | andHl
  /-- `AND n` (R275). -/
  | andN (n : Byte)
  /-- `XOR r` (R276). -/
  | xorR (r : R8)
  /-- `XOR (HL)` (R277). -/
  | xorHl
  /-- `XOR n` (R278). -/
  | xorN (n : Byte)
  /-- `OR r` (R279). -/
  | orR (r : R8)
  /-- `OR (HL)` (R280). -/
  | orHl
  /-- `OR n` (R281). -/
  | orN (n : Byte)
  /-- `CP r` (R282). -/
  | cpR (r : R8)
  /-- `CP (HL)` (R283). -/
  | cpHl
  /-- `CP n` (R284). -/
  | cpN (n : Byte)
  /-- `INC r` (R285). -/
  | incR (d : R8)
  /-- `INC (HL)` (R286). -/
  | incHl
  /-- `DEC r` (R287). -/
  | decR (d : R8)
  /-- `DEC (HL)` (R288). -/
  | decHl
  /-- `DAA` (R289). -/
  | daa
  /-- `CPL` (R290). -/
  | cpl
  /-- `SCF` (R291). -/
  | scf
  /-- `CCF` (R292). -/
  | ccf
  /-- `ADD HL, rr` (R311). -/
  | addHlRr (rr : R16)
  /-- `INC rr` (R312). -/
  | incRr (rr : R16)
  /-- `DEC rr` (R313). -/
  | decRr (rr : R16)
  /-- `ADD SP, e` (R314). -/
  | addSpE (e : Byte)
  /-- `RLCA` (R321). -/
  | rlca
  /-- `RRCA` (R322). -/
  | rrca
  /-- `RLA` (R323). -/
  | rla
  /-- `RRA` (R324). -/
  | rra
  /-- `RLC r` (R325). -/
  | rlcR (r : R8)
  /-- `RLC (HL)` (R326). -/
  | rlcHl
  /-- `RRC r` (R327). -/
  | rrcR (r : R8)
  /-- `RRC (HL)` (R328). -/
  | rrcHl
  /-- `RL r` (R329). -/
  | rlR (r : R8)
  /-- `RL (HL)` (R330). -/
  | rlHl
  /-- `RR r` (R331). -/
  | rrR (r : R8)
  /-- `RR (HL)` (R332). -/
  | rrHl
  /-- `SLA r` (R333). -/
  | slaR (r : R8)
  /-- `SLA (HL)` (R334). -/
  | slaHl
  /-- `SRA r` (R335). -/
  | sraR (r : R8)
  /-- `SRA (HL)` (R336). -/
  | sraHl
  /-- `SWAP r` (R337). -/
  | swapR (r : R8)
  /-- `SWAP (HL)` (R338). -/
  | swapHl
  /-- `SRL r` (R339). -/
  | srlR (r : R8)
  /-- `SRL (HL)` (R340). -/
  | srlHl
  /-- `BIT b, r` (R341). -/
  | bitBR (b : BitVec 3) (r : R8)
  /-- `BIT b, (HL)` (R342). -/
  | bitBHl (b : BitVec 3)
  /-- `RES b, r` (R343). -/
  | resBR (b : BitVec 3) (r : R8)
  /-- `RES b, (HL)` (R344). -/
  | resBHl (b : BitVec 3)
  /-- `SET b, r` (R345). -/
  | setBR (b : BitVec 3) (r : R8)
  /-- `SET b, (HL)` (R346). -/
  | setBHl (b : BitVec 3)
  /-- `JP nn` (R361). -/
  | jpNn (nn : Word)
  /-- `JP cc, nn` (R362). -/
  | jpCcNn (cc : Cond) (nn : Word)
  /-- `JP HL` (R363). -/
  | jpHl
  /-- `JR e` (R364). -/
  | jrE (e : Byte)
  /-- `JR cc, e` (R365). -/
  | jrCcE (cc : Cond) (e : Byte)
  /-- `CALL nn` (R366). -/
  | callNn (nn : Word)
  /-- `CALL cc, nn` (R367). -/
  | callCcNn (cc : Cond) (nn : Word)
  /-- `RET` (R368). -/
  | ret
  /-- `RET cc` (R369). -/
  | retCc (cc : Cond)
  /-- `RETI` (R370). -/
  | reti
  /-- `RST t` (R371). -/
  | rst (t : BitVec 3)
  /-- `NOP` (R391). -/
  | nop
  /-- `HALT` (R392). -/
  | halt
  /-- `STOP` (R393). -/
  | stop (n : Byte)
  /-- `DI` (R394). -/
  | di
  /-- `EI` (R395). -/
  | ei
  deriving DecidableEq, Repr

end Sys2Proof
end

