-- ==== Sys2Proof/WellFormed.lean ====
section
/-!
DEFINITION. Which instructions are well formed: no field takes a value that its row of opcode_table.json excludes (30_encoding R166).
-/

namespace Sys2Proof

/-- The operand names a register: the field is not 110, which belongs to the row of the (HL) form. -/
def R8.isReg : R8 → Bool
  | .reg _ => true
  | .ind => false

/-- The operand names a pair: the field is not 11, which belongs to the row of the AF form. -/
def StkPair.isPair : StkPair → Bool
  | .pair _ => true
  | .af => false

/-- No field takes an excluded value (30_encoding R166). -/
def Instr.wellFormed : Instr → Bool
  | .ldRR d r => d.isReg && r.isReg
  | .ldRN d _ => d.isReg
  | .ldRHl d => d.isReg
  | .ldHlR r => r.isReg
  | .ldHlN _ => true
  | .ldABc => true
  | .ldADe => true
  | .ldBcA => true
  | .ldDeA => true
  | .ldANn _ => true
  | .ldNnA _ => true
  | .ldhAN _ => true
  | .ldhNA _ => true
  | .ldhAC => true
  | .ldhCA => true
  | .ldHliA => true
  | .ldAHli => true
  | .ldHldA => true
  | .ldAHld => true
  | .ldRrNn _ _ => true
  | .ldNnSp _ => true
  | .ldSpHl => true
  | .ldHlSpE _ => true
  | .pushRr qq => qq.isPair
  | .pushAf => true
  | .popAf => true
  | .popRr qq => qq.isPair
  | .addAR r => r.isReg
  | .addAHl => true
  | .addAN _ => true
  | .adcAR r => r.isReg
  | .adcAHl => true
  | .adcAN _ => true
  | .subR r => r.isReg
  | .subHl => true
  | .subN _ => true
  | .sbcAR r => r.isReg
  | .sbcAHl => true
  | .sbcAN _ => true
  | .andR r => r.isReg
  | .andHl => true
  | .andN _ => true
  | .xorR r => r.isReg
  | .xorHl => true
  | .xorN _ => true
  | .orR r => r.isReg
  | .orHl => true
  | .orN _ => true
  | .cpR r => r.isReg
  | .cpHl => true
  | .cpN _ => true
  | .incR d => d.isReg
  | .incHl => true
  | .decR d => d.isReg
  | .decHl => true
  | .daa => true
  | .cpl => true
  | .scf => true
  | .ccf => true
  | .addHlRr _ => true
  | .incRr _ => true
  | .decRr _ => true
  | .addSpE _ => true
  | .rlca => true
  | .rrca => true
  | .rla => true
  | .rra => true
  | .rlcR r => r.isReg
  | .rlcHl => true
  | .rrcR r => r.isReg
  | .rrcHl => true
  | .rlR r => r.isReg
  | .rlHl => true
  | .rrR r => r.isReg
  | .rrHl => true
  | .slaR r => r.isReg
  | .slaHl => true
  | .sraR r => r.isReg
  | .sraHl => true
  | .swapR r => r.isReg
  | .swapHl => true
  | .srlR r => r.isReg
  | .srlHl => true
  | .bitBR _ r => r.isReg
  | .bitBHl _ => true
  | .resBR _ r => r.isReg
  | .resBHl _ => true
  | .setBR _ r => r.isReg
  | .setBHl _ => true
  | .jpNn _ => true
  | .jpCcNn _ _ => true
  | .jpHl => true
  | .jrE _ => true
  | .jrCcE _ _ => true
  | .callNn _ => true
  | .callCcNn _ _ => true
  | .ret => true
  | .retCc _ => true
  | .reti => true
  | .rst _ => true
  | .nop => true
  | .halt => true
  | .stop _ => true
  | .di => true
  | .ei => true

end Sys2Proof
end

