-- ==== Sys2Proof/Decode.lean ====
section
/-!
DEFINITION. The decoder, the pure table of 30_encoding R166 written row by row from opcode_table.json, total on any bytes, and the encoder,
written from the same table's bit patterns.
-/

namespace Sys2Proof

/-- The code of a register in a 3-bit field (10_state R49). -/
def Reg.code : Reg → BitVec 3
  | .b => 0#3
  | .c => 1#3
  | .d => 2#3
  | .e => 3#3
  | .h => 4#3
  | .l => 5#3
  | .a => 7#3

/-- The code of an 8-bit operand: 110 is the byte at HL (10_state R49). -/
def R8.code : R8 → BitVec 3
  | .reg r => r.code
  | .ind => 6#3

/-- The 8-bit operand of a code (10_state R49). -/
def R8.ofCode (k : BitVec 3) : R8 :=
  match k.toNat with
  | 0 => .reg .b
  | 1 => .reg .c
  | 2 => .reg .d
  | 3 => .reg .e
  | 4 => .reg .h
  | 5 => .reg .l
  | 6 => .ind
  | _ => .reg .a

/-- The code of a pair, shared by `r16` and `r16stk` (10_state R50, R51). -/
def Pair.code : Pair → BitVec 2
  | .bc => 0#2
  | .de => 1#2
  | .hl => 2#2

/-- The code of an `r16` operand (10_state R50). -/
def R16.code : R16 → BitVec 2
  | .pair p => p.code
  | .sp => 3#2

/-- The `r16` operand of a code (10_state R50). -/
def R16.ofCode (k : BitVec 2) : R16 :=
  match k.toNat with
  | 0 => .pair .bc
  | 1 => .pair .de
  | 2 => .pair .hl
  | _ => .sp

/-- The code of an `r16stk` operand (10_state R51). -/
def StkPair.code : StkPair → BitVec 2
  | .pair p => p.code
  | .af => 3#2

/-- The `r16stk` operand of a code (10_state R51). -/
def StkPair.ofCode (k : BitVec 2) : StkPair :=
  match k.toNat with
  | 0 => .pair .bc
  | 1 => .pair .de
  | 2 => .pair .hl
  | _ => .af

/-- The code of a condition (10_state R52). -/
def Cond.code : Cond → BitVec 2
  | .nz => 0#2
  | .z => 1#2
  | .nc => 2#2
  | .c => 3#2

/-- The condition of a code (10_state R52). -/
def Cond.ofCode (k : BitVec 2) : Cond :=
  match k.toNat with
  | 0 => .nz
  | 1 => .z
  | 2 => .nc
  | _ => .c

/-- The byte that makes an instruction a prefixed one (30_encoding R162). -/
def prefixByte : Byte := 0xCB#8

/-- The unprefixed opcodes of format OI16, three bytes long (30_encoding R170). -/
def threeByteOpcodes : List Byte :=
  [0x01#8, 0x08#8, 0x11#8, 0x21#8, 0x31#8, 0xC2#8, 0xC3#8, 0xC4#8, 0xCA#8, 0xCC#8, 0xCD#8, 0xD2#8, 0xD4#8, 0xDA#8, 0xDC#8,
   0xEA#8, 0xFA#8]

/-- The unprefixed opcodes of formats OI8 and OE8, two bytes long (30_encoding R170). -/
def twoByteOpcodes : List Byte :=
  [0x06#8, 0x0E#8, 0x10#8, 0x16#8, 0x18#8, 0x1E#8, 0x20#8, 0x26#8, 0x28#8, 0x2E#8, 0x30#8, 0x36#8, 0x38#8, 0x3E#8, 0xC6#8,
   0xCE#8, 0xD6#8, 0xDE#8, 0xE0#8, 0xE6#8, 0xE8#8, 0xEE#8, 0xF0#8, 0xF6#8, 0xF8#8, 0xFE#8]

/-- How many bytes follow the first byte of an instruction (30_encoding R170). An illegal byte has no length and nothing is read
after it: 0. -/
def bytesAfter (b0 : Byte) : Nat :=
  if b0 = prefixByte then 1
  else if threeByteOpcodes.contains b0 then 2
  else if twoByteOpcodes.contains b0 then 1
  else 0

/-- One row of opcode_table.json: an opcode matches when its masked bits are the row's; `build` reads the fields out of the opcode
byte and takes the immediates `n` (or `e`) and `nn`. -/
structure Row where
  mask  : Byte
  pat   : Byte
  build : Byte → Byte → Word → Instr

/-- What the row gives for an opcode: nothing when the bits differ or a field takes an excluded value (30_encoding R166). -/
def Row.instr (row : Row) (op n : Byte) (nn : Word) : Option Instr :=
  if op &&& row.mask = row.pat then
    if (row.build op n nn).wellFormed then some (row.build op n nn) else none
  else none

/-- The rows of 40_load8 and 41_load16. -/
def loadRows : List Row :=
  [⟨0xC0#8, 0x40#8, fun op _ _ => .ldRR (R8.ofCode (field53 op)) (R8.ofCode (field20 op))⟩,
   ⟨0xC7#8, 0x06#8, fun op n _ => .ldRN (R8.ofCode (field53 op)) n⟩,
   ⟨0xC7#8, 0x46#8, fun op _ _ => .ldRHl (R8.ofCode (field53 op))⟩,
   ⟨0xF8#8, 0x70#8, fun op _ _ => .ldHlR (R8.ofCode (field20 op))⟩,
   ⟨0xFF#8, 0x36#8, fun _ n _ => .ldHlN n⟩,
   ⟨0xFF#8, 0x0A#8, fun _ _ _ => .ldABc⟩,
   ⟨0xFF#8, 0x1A#8, fun _ _ _ => .ldADe⟩,
   ⟨0xFF#8, 0x02#8, fun _ _ _ => .ldBcA⟩,
   ⟨0xFF#8, 0x12#8, fun _ _ _ => .ldDeA⟩,
   ⟨0xFF#8, 0xFA#8, fun _ _ nn => .ldANn nn⟩,
   ⟨0xFF#8, 0xEA#8, fun _ _ nn => .ldNnA nn⟩,
   ⟨0xFF#8, 0xF0#8, fun _ n _ => .ldhAN n⟩,
   ⟨0xFF#8, 0xE0#8, fun _ n _ => .ldhNA n⟩,
   ⟨0xFF#8, 0xF2#8, fun _ _ _ => .ldhAC⟩,
   ⟨0xFF#8, 0xE2#8, fun _ _ _ => .ldhCA⟩,
   ⟨0xFF#8, 0x22#8, fun _ _ _ => .ldHliA⟩,
   ⟨0xFF#8, 0x2A#8, fun _ _ _ => .ldAHli⟩,
   ⟨0xFF#8, 0x32#8, fun _ _ _ => .ldHldA⟩,
   ⟨0xFF#8, 0x3A#8, fun _ _ _ => .ldAHld⟩,
   ⟨0xCF#8, 0x01#8, fun op _ nn => .ldRrNn (R16.ofCode (field54 op)) nn⟩] ++
  [⟨0xFF#8, 0x08#8, fun _ _ nn => .ldNnSp nn⟩,
   ⟨0xFF#8, 0xF9#8, fun _ _ _ => .ldSpHl⟩,
   ⟨0xFF#8, 0xF8#8, fun _ n _ => .ldHlSpE n⟩,
   ⟨0xCF#8, 0xC5#8, fun op _ _ => .pushRr (StkPair.ofCode (field54 op))⟩,
   ⟨0xFF#8, 0xF5#8, fun _ _ _ => .pushAf⟩,
   ⟨0xFF#8, 0xF1#8, fun _ _ _ => .popAf⟩,
   ⟨0xCF#8, 0xC1#8, fun op _ _ => .popRr (StkPair.ofCode (field54 op))⟩]

/-- The rows of 42_alu8. -/
def aluRows : List Row :=
  [⟨0xF8#8, 0x80#8, fun op _ _ => .addAR (R8.ofCode (field20 op))⟩,
   ⟨0xFF#8, 0x86#8, fun _ _ _ => .addAHl⟩,
   ⟨0xFF#8, 0xC6#8, fun _ n _ => .addAN n⟩,
   ⟨0xF8#8, 0x88#8, fun op _ _ => .adcAR (R8.ofCode (field20 op))⟩,
   ⟨0xFF#8, 0x8E#8, fun _ _ _ => .adcAHl⟩,
   ⟨0xFF#8, 0xCE#8, fun _ n _ => .adcAN n⟩,
   ⟨0xF8#8, 0x90#8, fun op _ _ => .subR (R8.ofCode (field20 op))⟩,
   ⟨0xFF#8, 0x96#8, fun _ _ _ => .subHl⟩,
   ⟨0xFF#8, 0xD6#8, fun _ n _ => .subN n⟩,
   ⟨0xF8#8, 0x98#8, fun op _ _ => .sbcAR (R8.ofCode (field20 op))⟩,
   ⟨0xFF#8, 0x9E#8, fun _ _ _ => .sbcAHl⟩,
   ⟨0xFF#8, 0xDE#8, fun _ n _ => .sbcAN n⟩,
   ⟨0xF8#8, 0xA0#8, fun op _ _ => .andR (R8.ofCode (field20 op))⟩,
   ⟨0xFF#8, 0xA6#8, fun _ _ _ => .andHl⟩,
   ⟨0xFF#8, 0xE6#8, fun _ n _ => .andN n⟩,
   ⟨0xF8#8, 0xA8#8, fun op _ _ => .xorR (R8.ofCode (field20 op))⟩,
   ⟨0xFF#8, 0xAE#8, fun _ _ _ => .xorHl⟩,
   ⟨0xFF#8, 0xEE#8, fun _ n _ => .xorN n⟩,
   ⟨0xF8#8, 0xB0#8, fun op _ _ => .orR (R8.ofCode (field20 op))⟩,
   ⟨0xFF#8, 0xB6#8, fun _ _ _ => .orHl⟩] ++
  [⟨0xFF#8, 0xF6#8, fun _ n _ => .orN n⟩,
   ⟨0xF8#8, 0xB8#8, fun op _ _ => .cpR (R8.ofCode (field20 op))⟩,
   ⟨0xFF#8, 0xBE#8, fun _ _ _ => .cpHl⟩,
   ⟨0xFF#8, 0xFE#8, fun _ n _ => .cpN n⟩,
   ⟨0xC7#8, 0x04#8, fun op _ _ => .incR (R8.ofCode (field53 op))⟩,
   ⟨0xFF#8, 0x34#8, fun _ _ _ => .incHl⟩,
   ⟨0xC7#8, 0x05#8, fun op _ _ => .decR (R8.ofCode (field53 op))⟩,
   ⟨0xFF#8, 0x35#8, fun _ _ _ => .decHl⟩,
   ⟨0xFF#8, 0x27#8, fun _ _ _ => .daa⟩,
   ⟨0xFF#8, 0x2F#8, fun _ _ _ => .cpl⟩,
   ⟨0xFF#8, 0x37#8, fun _ _ _ => .scf⟩,
   ⟨0xFF#8, 0x3F#8, fun _ _ _ => .ccf⟩]

/-- The rows of 43_alu16, the accumulator rotates of 44_rotate_shift_bit, 45_control and 46_system. -/
def miscRows : List Row :=
  [⟨0xCF#8, 0x09#8, fun op _ _ => .addHlRr (R16.ofCode (field54 op))⟩,
   ⟨0xCF#8, 0x03#8, fun op _ _ => .incRr (R16.ofCode (field54 op))⟩,
   ⟨0xCF#8, 0x0B#8, fun op _ _ => .decRr (R16.ofCode (field54 op))⟩,
   ⟨0xFF#8, 0xE8#8, fun _ n _ => .addSpE n⟩,
   ⟨0xFF#8, 0x07#8, fun _ _ _ => .rlca⟩,
   ⟨0xFF#8, 0x0F#8, fun _ _ _ => .rrca⟩,
   ⟨0xFF#8, 0x17#8, fun _ _ _ => .rla⟩,
   ⟨0xFF#8, 0x1F#8, fun _ _ _ => .rra⟩,
   ⟨0xFF#8, 0xC3#8, fun _ _ nn => .jpNn nn⟩,
   ⟨0xE7#8, 0xC2#8, fun op _ nn => .jpCcNn (Cond.ofCode (field43 op)) nn⟩,
   ⟨0xFF#8, 0xE9#8, fun _ _ _ => .jpHl⟩,
   ⟨0xFF#8, 0x18#8, fun _ n _ => .jrE n⟩,
   ⟨0xE7#8, 0x20#8, fun op n _ => .jrCcE (Cond.ofCode (field43 op)) n⟩,
   ⟨0xFF#8, 0xCD#8, fun _ _ nn => .callNn nn⟩,
   ⟨0xE7#8, 0xC4#8, fun op _ nn => .callCcNn (Cond.ofCode (field43 op)) nn⟩,
   ⟨0xFF#8, 0xC9#8, fun _ _ _ => .ret⟩,
   ⟨0xE7#8, 0xC0#8, fun op _ _ => .retCc (Cond.ofCode (field43 op))⟩,
   ⟨0xFF#8, 0xD9#8, fun _ _ _ => .reti⟩,
   ⟨0xC7#8, 0xC7#8, fun op _ _ => .rst (field53 op)⟩,
   ⟨0xFF#8, 0x00#8, fun _ _ _ => .nop⟩] ++
  [⟨0xFF#8, 0x76#8, fun _ _ _ => .halt⟩,
   ⟨0xFF#8, 0x10#8, fun _ n _ => .stop n⟩,
   ⟨0xFF#8, 0xF3#8, fun _ _ _ => .di⟩,
   ⟨0xFF#8, 0xFB#8, fun _ _ _ => .ei⟩]

/-- The prefixed rows, of 44_rotate_shift_bit (match, mask and fields of the byte after 0xCB). -/
def prefixedRows : List Row :=
  [⟨0xF8#8, 0x00#8, fun op _ _ => .rlcR (R8.ofCode (field20 op))⟩,
   ⟨0xFF#8, 0x06#8, fun _ _ _ => .rlcHl⟩,
   ⟨0xF8#8, 0x08#8, fun op _ _ => .rrcR (R8.ofCode (field20 op))⟩,
   ⟨0xFF#8, 0x0E#8, fun _ _ _ => .rrcHl⟩,
   ⟨0xF8#8, 0x10#8, fun op _ _ => .rlR (R8.ofCode (field20 op))⟩,
   ⟨0xFF#8, 0x16#8, fun _ _ _ => .rlHl⟩,
   ⟨0xF8#8, 0x18#8, fun op _ _ => .rrR (R8.ofCode (field20 op))⟩,
   ⟨0xFF#8, 0x1E#8, fun _ _ _ => .rrHl⟩,
   ⟨0xF8#8, 0x20#8, fun op _ _ => .slaR (R8.ofCode (field20 op))⟩,
   ⟨0xFF#8, 0x26#8, fun _ _ _ => .slaHl⟩,
   ⟨0xF8#8, 0x28#8, fun op _ _ => .sraR (R8.ofCode (field20 op))⟩,
   ⟨0xFF#8, 0x2E#8, fun _ _ _ => .sraHl⟩,
   ⟨0xF8#8, 0x30#8, fun op _ _ => .swapR (R8.ofCode (field20 op))⟩,
   ⟨0xFF#8, 0x36#8, fun _ _ _ => .swapHl⟩,
   ⟨0xF8#8, 0x38#8, fun op _ _ => .srlR (R8.ofCode (field20 op))⟩,
   ⟨0xFF#8, 0x3E#8, fun _ _ _ => .srlHl⟩,
   ⟨0xC0#8, 0x40#8, fun op _ _ => .bitBR (field53 op) (R8.ofCode (field20 op))⟩,
   ⟨0xC7#8, 0x46#8, fun op _ _ => .bitBHl (field53 op)⟩,
   ⟨0xC0#8, 0x80#8, fun op _ _ => .resBR (field53 op) (R8.ofCode (field20 op))⟩,
   ⟨0xC7#8, 0x86#8, fun op _ _ => .resBHl (field53 op)⟩] ++
  [⟨0xC0#8, 0xC0#8, fun op _ _ => .setBR (field53 op) (R8.ofCode (field20 op))⟩,
   ⟨0xC7#8, 0xC6#8, fun op _ _ => .setBHl (field53 op)⟩]

/-- Every unprefixed row. -/
def plainRows : List Row := loadRows ++ aluRows ++ miscRows

/-- The mapping keyed by (prefixed, opcode) (30_encoding R166), given the immediates that follow the opcode. `none` is a
DecodeFailure. -/
def decodeOpcode (prefixed : Bool) (op n : Byte) (nn : Word) : Option Instr :=
  (if prefixed then prefixedRows else plainRows).findSome? fun row => row.instr op n nn

/-! ### The value of an opcode -/

/-- A field of an opcode byte, as the operand it names (30_encoding R164). -/
inductive Field where
  | ddd (d : R8)
  | sss (r : R8)
  | rr (rr : R16)
  | qq (qq : StkPair)
  | cc (cc : Cond)
  | ttt (t : BitVec 3)
  | bbb (b : BitVec 3)
  deriving DecidableEq, Repr

/-- The decoded instruction value: the identity of a rule and its field values, without the immediates (30_encoding R178). -/
structure Value where
  rule   : Nat
  fields : List Field
  deriving DecidableEq, Repr

/-- The number of the rule that gives an instruction its meaning (opcode_table.json). -/
def Instr.rule : Instr → Nat
  | .ldRR _ _ => 201
  | .ldRN _ _ => 202
  | .ldRHl _ => 203
  | .ldHlR _ => 204
  | .ldHlN _ => 205
  | .ldABc => 206
  | .ldADe => 207
  | .ldBcA => 208
  | .ldDeA => 209
  | .ldANn _ => 210
  | .ldNnA _ => 211
  | .ldhAN _ => 212
  | .ldhNA _ => 213
  | .ldhAC => 214
  | .ldhCA => 215
  | .ldHliA => 216
  | .ldAHli => 217
  | .ldHldA => 218
  | .ldAHld => 219
  | .ldRrNn _ _ => 241
  | .ldNnSp _ => 242
  | .ldSpHl => 243
  | .ldHlSpE _ => 244
  | .pushRr _ => 245
  | .pushAf => 246
  | .popAf => 247
  | .popRr _ => 248
  | .addAR _ => 261
  | .addAHl => 262
  | .addAN _ => 263
  | .adcAR _ => 264
  | .adcAHl => 265
  | .adcAN _ => 266
  | .subR _ => 267
  | .subHl => 268
  | .subN _ => 269
  | .sbcAR _ => 270
  | .sbcAHl => 271
  | .sbcAN _ => 272
  | .andR _ => 273
  | .andHl => 274
  | .andN _ => 275
  | .xorR _ => 276
  | .xorHl => 277
  | .xorN _ => 278
  | .orR _ => 279
  | .orHl => 280
  | .orN _ => 281
  | .cpR _ => 282
  | .cpHl => 283
  | .cpN _ => 284
  | .incR _ => 285
  | .incHl => 286
  | .decR _ => 287
  | .decHl => 288
  | .daa => 289
  | .cpl => 290
  | .scf => 291
  | .ccf => 292
  | .addHlRr _ => 311
  | .incRr _ => 312
  | .decRr _ => 313
  | .addSpE _ => 314
  | .rlca => 321
  | .rrca => 322
  | .rla => 323
  | .rra => 324
  | .rlcR _ => 325
  | .rlcHl => 326
  | .rrcR _ => 327
  | .rrcHl => 328
  | .rlR _ => 329
  | .rlHl => 330
  | .rrR _ => 331
  | .rrHl => 332
  | .slaR _ => 333
  | .slaHl => 334
  | .sraR _ => 335
  | .sraHl => 336
  | .swapR _ => 337
  | .swapHl => 338
  | .srlR _ => 339
  | .srlHl => 340
  | .bitBR _ _ => 341
  | .bitBHl _ => 342
  | .resBR _ _ => 343
  | .resBHl _ => 344
  | .setBR _ _ => 345
  | .setBHl _ => 346
  | .jpNn _ => 361
  | .jpCcNn _ _ => 362
  | .jpHl => 363
  | .jrE _ => 364
  | .jrCcE _ _ => 365
  | .callNn _ => 366
  | .callCcNn _ _ => 367
  | .ret => 368
  | .retCc _ => 369
  | .reti => 370
  | .rst _ => 371
  | .nop => 391
  | .halt => 392
  | .stop _ => 393
  | .di => 394
  | .ei => 395

/-- The fields of an instruction's opcode byte (30_encoding R164; opcode_table.json). -/
def Instr.fields : Instr → List Field
  | .ldRR d r => [.ddd d, .sss r]
  | .ldRN d _ => [.ddd d]
  | .ldRHl d => [.ddd d]
  | .ldHlR r => [.sss r]
  | .ldHlN _ => []
  | .ldABc => []
  | .ldADe => []
  | .ldBcA => []
  | .ldDeA => []
  | .ldANn _ => []
  | .ldNnA _ => []
  | .ldhAN _ => []
  | .ldhNA _ => []
  | .ldhAC => []
  | .ldhCA => []
  | .ldHliA => []
  | .ldAHli => []
  | .ldHldA => []
  | .ldAHld => []
  | .ldRrNn rr _ => [.rr rr]
  | .ldNnSp _ => []
  | .ldSpHl => []
  | .ldHlSpE _ => []
  | .pushRr qq => [.qq qq]
  | .pushAf => []
  | .popAf => []
  | .popRr qq => [.qq qq]
  | .addAR r => [.sss r]
  | .addAHl => []
  | .addAN _ => []
  | .adcAR r => [.sss r]
  | .adcAHl => []
  | .adcAN _ => []
  | .subR r => [.sss r]
  | .subHl => []
  | .subN _ => []
  | .sbcAR r => [.sss r]
  | .sbcAHl => []
  | .sbcAN _ => []
  | .andR r => [.sss r]
  | .andHl => []
  | .andN _ => []
  | .xorR r => [.sss r]
  | .xorHl => []
  | .xorN _ => []
  | .orR r => [.sss r]
  | .orHl => []
  | .orN _ => []
  | .cpR r => [.sss r]
  | .cpHl => []
  | .cpN _ => []
  | .incR d => [.ddd d]
  | .incHl => []
  | .decR d => [.ddd d]
  | .decHl => []
  | .daa => []
  | .cpl => []
  | .scf => []
  | .ccf => []
  | .addHlRr rr => [.rr rr]
  | .incRr rr => [.rr rr]
  | .decRr rr => [.rr rr]
  | .addSpE _ => []
  | .rlca => []
  | .rrca => []
  | .rla => []
  | .rra => []
  | .rlcR r => [.sss r]
  | .rlcHl => []
  | .rrcR r => [.sss r]
  | .rrcHl => []
  | .rlR r => [.sss r]
  | .rlHl => []
  | .rrR r => [.sss r]
  | .rrHl => []
  | .slaR r => [.sss r]
  | .slaHl => []
  | .sraR r => [.sss r]
  | .sraHl => []
  | .swapR r => [.sss r]
  | .swapHl => []
  | .srlR r => [.sss r]
  | .srlHl => []
  | .bitBR b r => [.bbb b, .sss r]
  | .bitBHl b => [.bbb b]
  | .resBR b r => [.bbb b, .sss r]
  | .resBHl b => [.bbb b]
  | .setBR b r => [.bbb b, .sss r]
  | .setBHl b => [.bbb b]
  | .jpNn _ => []
  | .jpCcNn cc _ => [.cc cc]
  | .jpHl => []
  | .jrE _ => []
  | .jrCcE cc _ => [.cc cc]
  | .callNn _ => []
  | .callCcNn cc _ => [.cc cc]
  | .ret => []
  | .retCc cc => [.cc cc]
  | .reti => []
  | .rst t => [.ttt t]
  | .nop => []
  | .halt => []
  | .stop _ => []
  | .di => []
  | .ei => []

/-- The value of an instruction: what is left of it without its immediates (30_encoding R178). -/
def Instr.value (i : Instr) : Value := ⟨i.rule, i.fields⟩

/-- `decode(opcode, prefixed)`: the value of a pair, or `none` for a DecodeFailure (30_encoding R166, R178). -/
def decodeValue (prefixed : Bool) (op : Byte) : Option Value := (decodeOpcode prefixed op 0#8 0#16).map Instr.value

/-- Why bytes are no instruction. -/
inductive DecodeError where
  /-- The bytes end inside the instruction. The engine never meets it: it fetches every byte the first byte asks for. -/
  | truncated
  /-- The pair (prefixed, opcode) has no mapping (30_encoding R168). -/
  | unmapped (opcode : Byte) (prefixed : Bool)
  deriving DecidableEq, Repr

/-- The instruction whose opcode is `op` and whose bytes after the opcode begin `rest`, or the failure by name. -/
def decodeAs (prefixed : Bool) (op n : Byte) (nn : Word) (rest : List Byte) : Except DecodeError (Instr × List Byte) :=
  match decodeOpcode prefixed op n nn with
  | some i => .ok (i, rest)
  | none => .error (.unmapped op prefixed)

/-- The decoder over a byte sequence, the instruction's first byte first: the instruction and the bytes after it. It is total and
refuses by name. -/
def decode (bytes : List Byte) : Except DecodeError (Instr × List Byte) :=
  match bytes with
  | [] => .error .truncated
  | b0 :: tail =>
    if b0 = prefixByte then
      match tail with
      | [] => .error .truncated
      | op :: rest => decodeAs true op 0#8 0#16 rest
    else
      match bytesAfter b0, tail with
      | 0, rest => decodeAs false b0 0#8 0#16 rest
      | 1, n :: rest => decodeAs false b0 n 0#16 rest
      | 2, lo :: hi :: rest => decodeAs false b0 0#8 (wordOf hi lo) rest
      | _, _ => .error .truncated

/-- The bytes of an instruction, from the bit patterns of opcode_table.json (30_encoding R163, R164). -/
def encode : Instr → List Byte
  | .ldRR d r => [0b01#2 ++ d.code ++ r.code]
  | .ldRN d n => [0b00#2 ++ d.code ++ 0b110#3, n]
  | .ldRHl d => [0b01#2 ++ d.code ++ 0b110#3]
  | .ldHlR r => [0b01110#5 ++ r.code]
  | .ldHlN n => [0b00110110#8, n]
  | .ldABc => [0b00001010#8]
  | .ldADe => [0b00011010#8]
  | .ldBcA => [0b00000010#8]
  | .ldDeA => [0b00010010#8]
  | .ldANn nn => [0b11111010#8, loByte nn, hiByte nn]
  | .ldNnA nn => [0b11101010#8, loByte nn, hiByte nn]
  | .ldhAN n => [0b11110000#8, n]
  | .ldhNA n => [0b11100000#8, n]
  | .ldhAC => [0b11110010#8]
  | .ldhCA => [0b11100010#8]
  | .ldHliA => [0b00100010#8]
  | .ldAHli => [0b00101010#8]
  | .ldHldA => [0b00110010#8]
  | .ldAHld => [0b00111010#8]
  | .ldRrNn rr nn => [0b00#2 ++ rr.code ++ 0b0001#4, loByte nn, hiByte nn]
  | .ldNnSp nn => [0b00001000#8, loByte nn, hiByte nn]
  | .ldSpHl => [0b11111001#8]
  | .ldHlSpE e => [0b11111000#8, e]
  | .pushRr qq => [0b11#2 ++ qq.code ++ 0b0101#4]
  | .pushAf => [0b11110101#8]
  | .popAf => [0b11110001#8]
  | .popRr qq => [0b11#2 ++ qq.code ++ 0b0001#4]
  | .addAR r => [0b10000#5 ++ r.code]
  | .addAHl => [0b10000110#8]
  | .addAN n => [0b11000110#8, n]
  | .adcAR r => [0b10001#5 ++ r.code]
  | .adcAHl => [0b10001110#8]
  | .adcAN n => [0b11001110#8, n]
  | .subR r => [0b10010#5 ++ r.code]
  | .subHl => [0b10010110#8]
  | .subN n => [0b11010110#8, n]
  | .sbcAR r => [0b10011#5 ++ r.code]
  | .sbcAHl => [0b10011110#8]
  | .sbcAN n => [0b11011110#8, n]
  | .andR r => [0b10100#5 ++ r.code]
  | .andHl => [0b10100110#8]
  | .andN n => [0b11100110#8, n]
  | .xorR r => [0b10101#5 ++ r.code]
  | .xorHl => [0b10101110#8]
  | .xorN n => [0b11101110#8, n]
  | .orR r => [0b10110#5 ++ r.code]
  | .orHl => [0b10110110#8]
  | .orN n => [0b11110110#8, n]
  | .cpR r => [0b10111#5 ++ r.code]
  | .cpHl => [0b10111110#8]
  | .cpN n => [0b11111110#8, n]
  | .incR d => [0b00#2 ++ d.code ++ 0b100#3]
  | .incHl => [0b00110100#8]
  | .decR d => [0b00#2 ++ d.code ++ 0b101#3]
  | .decHl => [0b00110101#8]
  | .daa => [0b00100111#8]
  | .cpl => [0b00101111#8]
  | .scf => [0b00110111#8]
  | .ccf => [0b00111111#8]
  | .addHlRr rr => [0b00#2 ++ rr.code ++ 0b1001#4]
  | .incRr rr => [0b00#2 ++ rr.code ++ 0b0011#4]
  | .decRr rr => [0b00#2 ++ rr.code ++ 0b1011#4]
  | .addSpE e => [0b11101000#8, e]
  | .rlca => [0b00000111#8]
  | .rrca => [0b00001111#8]
  | .rla => [0b00010111#8]
  | .rra => [0b00011111#8]
  | .rlcR r => [0xCB#8, 0b00000#5 ++ r.code]
  | .rlcHl => [0xCB#8, 0b00000110#8]
  | .rrcR r => [0xCB#8, 0b00001#5 ++ r.code]
  | .rrcHl => [0xCB#8, 0b00001110#8]
  | .rlR r => [0xCB#8, 0b00010#5 ++ r.code]
  | .rlHl => [0xCB#8, 0b00010110#8]
  | .rrR r => [0xCB#8, 0b00011#5 ++ r.code]
  | .rrHl => [0xCB#8, 0b00011110#8]
  | .slaR r => [0xCB#8, 0b00100#5 ++ r.code]
  | .slaHl => [0xCB#8, 0b00100110#8]
  | .sraR r => [0xCB#8, 0b00101#5 ++ r.code]
  | .sraHl => [0xCB#8, 0b00101110#8]
  | .swapR r => [0xCB#8, 0b00110#5 ++ r.code]
  | .swapHl => [0xCB#8, 0b00110110#8]
  | .srlR r => [0xCB#8, 0b00111#5 ++ r.code]
  | .srlHl => [0xCB#8, 0b00111110#8]
  | .bitBR b r => [0xCB#8, 0b01#2 ++ b ++ r.code]
  | .bitBHl b => [0xCB#8, 0b01#2 ++ b ++ 0b110#3]
  | .resBR b r => [0xCB#8, 0b10#2 ++ b ++ r.code]
  | .resBHl b => [0xCB#8, 0b10#2 ++ b ++ 0b110#3]
  | .setBR b r => [0xCB#8, 0b11#2 ++ b ++ r.code]
  | .setBHl b => [0xCB#8, 0b11#2 ++ b ++ 0b110#3]
  | .jpNn nn => [0b11000011#8, loByte nn, hiByte nn]
  | .jpCcNn cc nn => [0b110#3 ++ cc.code ++ 0b010#3, loByte nn, hiByte nn]
  | .jpHl => [0b11101001#8]
  | .jrE e => [0b00011000#8, e]
  | .jrCcE cc e => [0b001#3 ++ cc.code ++ 0b000#3, e]
  | .callNn nn => [0b11001101#8, loByte nn, hiByte nn]
  | .callCcNn cc nn => [0b110#3 ++ cc.code ++ 0b100#3, loByte nn, hiByte nn]
  | .ret => [0b11001001#8]
  | .retCc cc => [0b110#3 ++ cc.code ++ 0b000#3]
  | .reti => [0b11011001#8]
  | .rst t => [0b11#2 ++ t ++ 0b111#3]
  | .nop => [0b00000000#8]
  | .halt => [0b01110110#8]
  | .stop n => [0b00010000#8, n]
  | .di => [0b11110011#8]
  | .ei => [0b11111011#8]

/-- The instruction the decoder reads from an instruction whose bits are `w`, byte by byte from the least significant: the byte at
the lowest address is bits 7:0. Bits from `nbits` up are 0, so immediates the table gives no bits are zero bytes. -/
def decodeTableWord (nbits w : Nat) : Option Instr :=
  let v := w % 2 ^ nbits
  match decode [BitVec.ofNat 8 v, BitVec.ofNat 8 (v / 256), BitVec.ofNat 8 (v / 65536)] with
  | .ok (i, _) => some i
  | .error _ => none

end Sys2Proof
end

