-- ==== Sys2Proof/Config.lean ====
section
/-!
DEFINITION. The free values of the block: what the spec calls a draw (00_scope R18). Each is a constant with no body, so no proof
knows what it is. Also the types those values have.
-/

namespace Sys2Proof

/-- The eight buttons of a step's snapshot, true = pressed (20_memory R110). -/
structure Buttons where
  right  : Bool
  left   : Bool
  up     : Bool
  down   : Bool
  a      : Bool
  b      : Bool
  select : Bool
  start  : Bool
  deriving DecidableEq, Repr, Inhabited

/-- No button pressed. -/
def Buttons.none : Buttons := ⟨false, false, false, false, false, false, false, false⟩

/-- What a step receives from outside (00_scope R9): the newly pending lines (bit 0 VBlank, bit 1 LCDStat, bit 2 Timer) and the
button snapshot. -/
structure StepInput where
  req     : BitVec 3
  buttons : Buttons
  deriving DecidableEq, Repr, Inhabited

/-- The inputs of a step that is asked nothing: no request, no button. -/
def StepInput.quiet : StepInput := ⟨0#3, Buttons.none⟩

/-- The stores whose contents at reset the spec leaves open (10_state R70). -/
inductive Store where
  | wram | hram | cartRam
  deriving DecidableEq, Repr

/-- FREE VALUE. The inputs of a step, where no script gives them; applied to the draw counter (60_exceptions R404; log entry 4). -/
opaque Config.stepInput : Nat → StepInput

/-- FREE VALUE. The answer to a draw of a byte (an External read, a read of 0xFF50, a clock-register read), where no script gives
it; applied to the draw counter (20_memory R85, R142; log entries 4 and 14). -/
opaque Config.drawnByte : Nat → Byte

/-- FREE VALUE. The byte that a store holds at an offset nothing has written since reset (10_state R70; log entry 2). -/
opaque Config.powerOn : Store → Nat → Byte

end Sys2Proof
end

