-- ==== Sys2Proof/Machine/State.lean ====
section
/-!
DEFINITION. The state of the block as plain data (10_state R41 to R67), the reasons a step can stop, and the state at reset.
-/

namespace Sys2Proof.Machine

/-- The flags Z, N, H and C of F. The low four bits of F do not exist as state (10_state R43). -/
structure Flags where
  z : Bool
  n : Bool
  h : Bool
  c : Bool
  deriving DecidableEq, Repr

/-- The CPU's state (10_state R41). -/
structure Cpu where
  a          : Byte
  b          : Byte
  c          : Byte
  d          : Byte
  e          : Byte
  h          : Byte
  l          : Byte
  flags      : Flags
  sp         : Word
  pc         : Word
  halted     : Bool
  ime        : Bool
  eiPending  : Bool
  /-- The model's own field: the local `enable_after` of 60_exceptions R401, false between steps (log entry 7). -/
  enableAfter : Bool
  deriving DecidableEq, Repr

/-- A store: (offset, byte) cells, offsets strictly rising (`Memory.wf`). An offset that is not listed reads as `Store.rest` or
`Image.rest` of Machine/Mem.lean says. -/
abbrev Memory := List Host.Cell

/-- The stores and registers the bus owns (10_state R56 to R60). -/
structure Bus where
  wram       : Memory
  hram       : Memory
  ie         : Byte
  iflag      : BitVec 5
  bootActive : Bool
  p1Select   : BitVec 2
  deriving DecidableEq, Repr

/-- MBC1's registers (10_state R62). -/
structure Mbc1 where
  ramEnabled : Bool
  bankLo5    : BitVec 5
  bankHi2    : BitVec 2
  mode       : BitVec 1
  deriving DecidableEq, Repr

/-- MBC2's registers (10_state R63); its 512 entries of 4 bits are the cartridge's `ram`. -/
structure Mbc2 where
  ramEnabled : Bool
  bank4      : BitVec 4
  deriving DecidableEq, Repr

/-- The five clock registers of MBC3, `rtc[0..4]` (10_state R64), under the names of 20_memory R139. -/
structure Rtc where
  seconds : Byte
  minutes : Byte
  hours   : Byte
  dayLow  : Byte
  dayHigh : Byte
  deriving DecidableEq, Repr

/-- MBC3's registers (10_state R64). -/
structure Mbc3 where
  ramAndTimerEnabled : Bool
  bank7              : BitVec 7
  ramBank2           : BitVec 2
  rtcMode            : Bool
  rtcSel             : BitVec 3
  rtc                : Rtc
  deriving DecidableEq, Repr

/-- MBC5's registers (10_state R65). -/
structure Mbc5 where
  ramEnabled : Bool
  bankLo8    : Byte
  bankHi1    : BitVec 1
  ramBank4   : BitVec 4
  deriving DecidableEq, Repr

/-- The bank controller of the cartridge's variant (10_state R61 to R66; 20_memory R120). -/
inductive Mbc where
  | romOnly
  | mbc1 (m : Mbc1)
  | mbc2 (m : Mbc2)
  | mbc3 (m : Mbc3)
  | mbc5 (m : Mbc5)
  deriving DecidableEq, Repr

/-- The cartridge's state: its RAM buffer and its controller (10_state R61). -/
structure Cart where
  ram : Memory
  mbc : Mbc
  deriving DecidableEq, Repr

/-- `P_RTC_MODEL` (00_scope R12). -/
inductive RtcModel where
  | draw | frozen
  deriving DecidableEq, Repr

/-- One row of the table `P_CYCLES`: the base cost of the instruction of a rule, and the one it has where its condition does not hold
(70_reset R452). -/
structure CostRow where
  rule     : Nat
  taken    : Nat
  notTaken : Nat
  deriving DecidableEq, Repr

/-- What construction fixes and no step changes (10_state R67; 00_scope R12). It stands in the state because the machine is one
function of the state (log entry 8). -/
structure Params where
  /-- `P_ROM`, as the cells whose byte is not 0x00 (log entry 3). -/
  rom          : Memory
  romLen       : Nat
  /-- `P_BOOT`, as the cells whose byte is not 0x00 (log entry 3). -/
  boot         : Option Memory
  ramLen       : Nat
  battery      : Bool
  hasRtc       : Bool
  /-- Whether a persistence collaborator is attached (20_memory R127). -/
  collaborator : Bool
  /-- `P_RAM_SENTINEL`. -/
  ramSentinel  : Byte
  /-- `P_EI_DELAY = 1`. -/
  eiDelay      : Bool
  /-- `P_RTC_MODEL`. -/
  rtcModel     : RtcModel
  /-- `P_DECODE_SET`, as the pairs (prefixed, opcode) that FULL has and it has not (30_encoding R169). -/
  decodeOmits  : List (Bool × Byte)
  /-- `P_CYCLES`, as the rows that stand in place of those of 70_reset R452 (log entry 12). -/
  cycles       : List CostRow
  deriving DecidableEq, Repr

/-- The areas that belong to collaborators outside the block (20_memory R83). -/
inductive ExtArea where
  | vram | oam | unusable | io
  deriving DecidableEq, Repr

/-- One access of a step to an External address, as its collaborator sees it (00_scope R10). -/
inductive ExtAccess where
  | read (area : ExtArea) (addr : Word)
  | write (area : ExtArea) (addr : Word) (value : Byte)
  deriving DecidableEq, Repr

/-- The model's own part of the state: the ports of 00_scope R9 and R10 (log entries 4, 5 and 6). -/
structure Ports where
  /-- The inputs of the coming steps; when it is empty a step's inputs are a free value. -/
  inputs : List StepInput
  /-- The answers to the coming draws of a byte; when it is empty an answer is a free value. -/
  bytes  : List Byte
  /-- How many free values have been taken: what the next one is applied to. -/
  draws  : Nat
  /-- The inputs of the step under way. -/
  input  : StepInput
  /-- The External accesses of the step under way, the oldest first. -/
  ext    : List ExtAccess
  /-- What the step emits on the port `cycles`: the base cost (60_exceptions R401, step 5). -/
  cycles : Nat
  /-- The surcharge of the interrupt that the step took, 0 where it took none (60_exceptions R401, step 8). -/
  surcharge : Nat
  deriving DecidableEq, Repr

/-- The block's state (10_state R41), with the configuration and the ports. -/
structure State where
  cpu    : Cpu
  bus    : Bus
  cart   : Cart
  params : Params
  ports  : Ports
  deriving DecidableEq, Repr

/-- Why a step stops with a fault. -/
inductive Fault where
  /-- Raised by the fetch of the engine (Machine/Engine.lean) for a pair (prefixed, opcode) with no mapping: an illegal byte, or a
  pair outside `P_DECODE_SET` (60_exceptions R406). Safe: the spec gives the step this outcome, with the state unchanged. -/
  | decodeFailure (opcode : Byte) (prefixed : Bool) (pc : Word)
  deriving DecidableEq, Repr

/-- Why a step refuses. -/
inductive Refusal where
  /-- Raised by `exec`'s arm of an instruction that has no meaning yet. Safe. -/
  | notModelled (mnemonic : String)
  /-- Raised by STOP, the one encoding the spec maps and gives no meaning (46_system R393; 60_exceptions R407), with its opcode and
  the PC. Safe: the spec gives the step this outcome, with the state unchanged. -/
  | unmodelled (opcode : Byte) (pc : Word)
  /-- Raised by the run of a launch (Machine/Session.lean) and by no step: the launch's code reached a form that the full table maps and
  its `P_DECODE_SET` leaves out (60_exceptions R432). Safe: the spec has a model refuse such a launch. -/
  | leftOut (opcode : Byte) (prefixed : Bool) (pc : Word)
  deriving DecidableEq, Repr

/-- The CPU at reset without a boot image: `P_POST_BOOT` at its default (10_state R70). `enableAfter` is the model's own
(log entry 7). -/
def Cpu.reset : Cpu where
  a := 0x01#8
  b := 0x00#8
  c := 0x13#8
  d := 0x00#8
  e := 0xD8#8
  h := 0x01#8
  l := 0x4D#8
  flags := ⟨true, false, true, true⟩
  sp := 0xFFFE#16
  pc := 0x0100#16
  halted := false
  ime := false
  eiPending := false
  enableAfter := false

/-- The bus at reset without a boot image (10_state R70); nothing has been written in WRAM or HRAM. -/
def Bus.reset : Bus where
  wram := []
  hram := []
  ie := 0x00#8
  iflag := 0b00001#5
  bootActive := false
  p1Select := 0b11#2

/-- DESIGN CHOICE (log entry 1), unsafe: the cartridge in the machine at reset, which the spec leaves to `P_ROM`: 32 KiB of 0x00, so
type 0x00 and RAM code 0x00, a RomOnly cartridge without RAM. The other parameters are at the spec's defaults (00_scope R12). -/
def Params.reset : Params where
  rom := []
  romLen := 0x8000
  boot := none
  ramLen := 0
  battery := false
  hasRtc := false
  collaborator := false
  ramSentinel := 0x00#8
  eiDelay := true
  rtcModel := .draw
  decodeOmits := []
  cycles := []

/-- DESIGN CHOICE (log entries 4, 5 and 6): the ports at reset, with no script of inputs or answers. -/
def Ports.reset : Ports where
  inputs := []
  bytes := []
  draws := 0
  input := StepInput.quiet
  ext := []
  cycles := 0
  surcharge := 0

/-- The block right after reset, without a boot image (10_state R70). -/
def State.reset : State where
  cpu := Cpu.reset
  bus := Bus.reset
  cart := ⟨[], .romOnly⟩
  params := Params.reset
  ports := Ports.reset

end Sys2Proof.Machine
end

