-- ==== Sys2Proof/Machine/Mem.lean ====
section
/-!
DEFINITION. The operations over one store of bytes, its canonical form, and what an offset that is not listed reads as.
-/

namespace Sys2Proof.Machine

/-- What an offset of a ROM or boot image that is not listed reads as: an image lists its bytes other than 0x00 (log entry 3). -/
def Image.rest : Option Byte := some 0x00#8

/-- What an offset of a RAM that is not listed reads as: nothing has written it, so a read there gives the byte the RAM powered up
with, a free value (`ramByte`; log entry 2). -/
def Store.rest : Option Byte := none

/-- The byte listed at an offset. -/
def Memory.get : Memory → Nat → Option Byte
  | [], _ => none
  | (k, v) :: m, a => if k = a then some v else Memory.get m a

/-- Store a byte in a RAM: the cell at the offset takes it, or a new cell stands in its place in the order. -/
def Memory.put : Memory → Nat → Byte → Memory
  | [], a, v => [(a, v)]
  | (k, w) :: m, a, v =>
    if a = k then (a, v) :: m
    else if a < k then (a, v) :: (k, w) :: m
    else (k, w) :: Memory.put m a v

/-- Take the cell at an offset away. -/
def Memory.drop : Memory → Nat → Memory
  | [], _ => []
  | (k, w) :: m, a => if a = k then m else (k, w) :: Memory.drop m a

/-- Set a byte where unlisted offsets read as `rest`, keeping the canonical form: writing `rest` removes the cell. -/
def Memory.set (rest : Option Byte) (m : Memory) (a : Nat) (v : Byte) : Memory :=
  if some v = rest then Memory.drop m a else Memory.put m a v

/-- Offsets strictly rise from `lo`. -/
def Memory.rising : Nat → Memory → Bool
  | _, [] => true
  | lo, (k, _) :: m => decide (lo ≤ k) && Memory.rising (k + 1) m

/-- The canonical form: offsets strictly rise, and no cell holds what an unlisted offset reads as. -/
def Memory.wf (rest : Option Byte) (m : Memory) : Bool :=
  Memory.rising 0 m && m.all fun c => decide (some c.2 ≠ rest)

/-- The canonical form of a RAM of `size` bytes: offsets strictly rise and lie inside it. -/
def Memory.within (size : Nat) (m : Memory) : Bool :=
  Memory.wf Store.rest m && m.all fun c => decide (c.1 < size)

/-- The byte of an image at an offset (20_memory R124). -/
def imageByte (m : Memory) (a : Nat) : Byte := ((Memory.get m a).or Image.rest).getD 0x00#8

/-- The byte of a RAM at an offset: the one last written, or the one it powered up with (20_memory R97; 10_state R70). -/
def ramByte (store : Store) (m : Memory) (a : Nat) : Byte :=
  ((Memory.get m a).or Store.rest).getD (Config.powerOn store a)

end Sys2Proof.Machine
end

