-- ==== Sys2Proof/Machine/Cartridge.lean ====
section
/-!
DEFINITION. The cartridge: the windows onto ROM and RAM and the bank-switch state machines of the five variants (20_memory R123 to R145).
-/

namespace Sys2Proof.Machine

/-- `Rom0(addr)` as an offset into the ROM (20_memory R124). -/
def rom0Offset (romLen : Nat) (addr : Word) : Nat := addr.toNat % romLen

/-- `RomAt(bank, addr)` as an offset into the ROM (20_memory R124). -/
def romAtOffset (romLen bank : Nat) (addr : Word) : Nat := (bank * 0x4000 + (addr.toNat - 0x4000)) % romLen

/-- `RamAt(bank, addr)` as an offset into the RAM (20_memory R124). -/
def ramAtOffset (ramLen bank : Nat) (addr : Word) : Nat := (bank * 0x2000 + (addr.toNat - 0xA000)) % ramLen

/-- MBC1's effective ROM bank: 0 in the five bits is 1, and the two bits extend it in mode 0 (20_memory R131). -/
def Mbc1.romBank (m : Mbc1) : Nat :=
  let lo := if m.bankLo5 = 0#5 then 1 else m.bankLo5.toNat
  if m.mode = 0#1 then m.bankHi2.toNat * 32 + lo else lo

/-- MBC1's effective RAM bank (20_memory R131). -/
def Mbc1.ramBank (m : Mbc1) : Nat := if m.mode = 1#1 then m.bankHi2.toNat else 0

/-- MBC2's effective ROM bank: 0 is 1 (20_memory R136). -/
def Mbc2.romBank (m : Mbc2) : Nat := if m.bank4 = 0#4 then 1 else m.bank4.toNat

/-- MBC3's effective ROM bank: 0 is 1 (20_memory R138). -/
def Mbc3.romBank (m : Mbc3) : Nat := if m.bank7 = 0#7 then 1 else m.bank7.toNat

/-- MBC5's effective ROM bank, nine bits with no case for 0 (20_memory R144). -/
def Mbc5.romBank (m : Mbc5) : Nat := m.bankHi1.toNat * 256 + m.bankLo8.toNat

/-- The offset into the ROM that a read of 0x0000-0x7FFF takes (20_memory R129, R132, R136, R141, R144). -/
def romOffset (p : Params) (mbc : Mbc) (addr : Word) : Nat :=
  if addr.toNat < 0x4000 then rom0Offset p.romLen addr
  else
    match mbc with
    | .romOnly => rom0Offset p.romLen addr
    | .mbc1 m => romAtOffset p.romLen m.romBank addr
    | .mbc2 m => romAtOffset p.romLen m.romBank addr
    | .mbc3 m => romAtOffset p.romLen m.romBank addr
    | .mbc5 m => romAtOffset p.romLen m.romBank addr

/-- `CartRead(addr)` (20_memory R123). -/
def cartRead (p : Params) (c : Cart) (addr : Word) : Byte := imageByte p.rom (romOffset p c.mbc addr)

/-- The enable convention of every banked variant: the whole byte is compared (20_memory R125). -/
def enables (v : Byte) : Bool := decide (v = 0x0A#8)

/-- MBC1's register writes (20_memory R130). -/
def Mbc1.write (m : Mbc1) (addr : Word) (v : Byte) : Mbc1 :=
  if addr.toNat ≤ 0x1FFF then { m with ramEnabled := enables v }
  else if addr.toNat ≤ 0x3FFF then { m with bankLo5 := v.extractLsb' 0 5 }
  else if addr.toNat ≤ 0x5FFF then { m with bankHi2 := v.extractLsb' 0 2 }
  else { m with mode := v.extractLsb' 0 1 }

/-- MBC2's register writes; 0x4000-0x7FFF has no effect (20_memory R135). -/
def Mbc2.write (m : Mbc2) (addr : Word) (v : Byte) : Mbc2 :=
  if addr.toNat ≤ 0x1FFF then { m with ramEnabled := enables v }
  else if addr.toNat ≤ 0x3FFF then { m with bank4 := v.extractLsb' 0 4 }
  else m

/-- Whether a byte written to 0x4000-0x5FFF of MBC3 selects a clock register (20_memory R139). -/
def selectsClock (v : Byte) : Bool := decide (0x08 ≤ v.toNat) && decide (v.toNat ≤ 0x0C)

/-- MBC3's register writes; 0x6000-0x7FFF, the clock latch, changes nothing (20_memory R138 to R140). -/
def Mbc3.write (m : Mbc3) (addr : Word) (v : Byte) : Mbc3 :=
  if addr.toNat ≤ 0x1FFF then { m with ramAndTimerEnabled := enables v }
  else if addr.toNat ≤ 0x3FFF then { m with bank7 := v.extractLsb' 0 7 }
  else if addr.toNat ≤ 0x5FFF then
    if selectsClock v then { m with rtcMode := true, rtcSel := (v - 0x08#8).extractLsb' 0 3 }
    else { m with rtcMode := false, ramBank2 := v.extractLsb' 0 2 }
  else m

/-- MBC5's register writes; 0x6000-0x7FFF has no effect (20_memory R143). -/
def Mbc5.write (m : Mbc5) (addr : Word) (v : Byte) : Mbc5 :=
  if addr.toNat ≤ 0x1FFF then { m with ramEnabled := enables v }
  else if addr.toNat ≤ 0x2FFF then { m with bankLo8 := v }
  else if addr.toNat ≤ 0x3FFF then { m with bankHi1 := v.extractLsb' 0 1 }
  else if addr.toNat ≤ 0x5FFF then { m with ramBank4 := v.extractLsb' 0 4 }
  else m

/-- `CartWrite(addr, v)`: bank-register programming; the ROM never changes, and RomOnly ignores it (20_memory R123, R129). -/
def Mbc.write (mbc : Mbc) (addr : Word) (v : Byte) : Mbc :=
  match mbc with
  | .romOnly => .romOnly
  | .mbc1 m => .mbc1 (m.write addr v)
  | .mbc2 m => .mbc2 (m.write addr v)
  | .mbc3 m => .mbc3 (m.write addr v)
  | .mbc5 m => .mbc5 (m.write addr v)

/-- What an access to 0xA000-0xBFFF reaches. -/
inductive RamTarget where
  /-- Nothing answers: the RAM is disabled or absent (20_memory R126). -/
  | closed
  /-- A byte of the RAM. -/
  | cell (offset : Nat)
  /-- An entry of MBC2's 4-bit RAM (20_memory R137). -/
  | nibble (offset : Nat)
  /-- A clock register of MBC3 (20_memory R142). -/
  | clock (sel : BitVec 3)
  deriving DecidableEq, Repr

/-- The cell of a bank, when the cartridge has RAM (20_memory R126, R133, R142, R145). -/
def ramCell (ramLen bank : Nat) (addr : Word) : RamTarget :=
  if ramLen = 0 then .closed else .cell (ramAtOffset ramLen bank addr)

/-- What an access to 0xA000-0xBFFF reaches, by variant (20_memory R126, R129, R133, R137, R142, R145). -/
def ramTarget (p : Params) (mbc : Mbc) (addr : Word) : RamTarget :=
  match mbc with
  | .romOnly => ramCell p.ramLen 0 addr
  | .mbc1 m => if m.ramEnabled then ramCell p.ramLen m.ramBank addr else .closed
  | .mbc2 m => if m.ramEnabled then .nibble ((addr.toNat - 0xA000) % 512) else .closed
  | .mbc3 m =>
    if m.ramAndTimerEnabled then
      if m.rtcMode then .clock m.rtcSel else ramCell p.ramLen m.ramBank2.toNat addr
    else .closed
  | .mbc5 m => if m.ramEnabled then ramCell p.ramLen m.ramBank4.toNat addr else .closed

/-- `rtc[sel]` (20_memory R139). Selections 5 to 7 never occur; they read the last register (log entry 15). -/
def Rtc.read (r : Rtc) (sel : BitVec 3) : Byte :=
  match sel.toNat with
  | 0 => r.seconds
  | 1 => r.minutes
  | 2 => r.hours
  | 3 => r.dayLow
  | _ => r.dayHigh

/-- `rtc[sel] <- v` (20_memory R139, R142). -/
def Rtc.write (r : Rtc) (sel : BitVec 3) (v : Byte) : Rtc :=
  match sel.toNat with
  | 0 => { r with seconds := v }
  | 1 => { r with minutes := v }
  | 2 => { r with hours := v }
  | 3 => { r with dayLow := v }
  | _ => { r with dayHigh := v }

/-- `rtc[sel]` of the controller, where it has clock registers. -/
def Mbc.clock (mbc : Mbc) (sel : BitVec 3) : Byte :=
  match mbc with
  | .mbc3 m => m.rtc.read sel
  | .romOnly => 0#8
  | .mbc1 _ => 0#8
  | .mbc2 _ => 0#8
  | .mbc5 _ => 0#8

/-- `rtc[sel] <- v`, where the controller has clock registers. -/
def Mbc.setClock (mbc : Mbc) (sel : BitVec 3) (v : Byte) : Mbc :=
  match mbc with
  | .mbc3 m => .mbc3 { m with rtc := m.rtc.write sel v }
  | .romOnly => mbc
  | .mbc1 _ => mbc
  | .mbc2 _ => mbc
  | .mbc5 _ => mbc

/-- `CartReadRam(addr)`; `none` is a draw (a clock register under `P_RTC_MODEL = draw`) (20_memory R126, R133, R137, R142). -/
def cartReadRam (p : Params) (c : Cart) (addr : Word) : Option Byte :=
  match ramTarget p c.mbc addr with
  | .closed => some p.ramSentinel
  | .cell k => some (ramByte .cartRam c.ram k)
  | .nibble k => some (ramByte .cartRam c.ram k &&& 0x0F#8)
  | .clock sel =>
    match p.rtcModel with
    | .draw => none
    | .frozen => some (c.mbc.clock sel)

/-- `CartWriteRam(addr, v)` (20_memory R126, R133, R137, R142). -/
def cartWriteRam (p : Params) (c : Cart) (addr : Word) (v : Byte) : Cart :=
  match ramTarget p c.mbc addr with
  | .closed => c
  | .cell k => { c with ram := c.ram.put k v }
  | .nibble k => { c with ram := c.ram.put k (v &&& 0x0F#8) }
  | .clock sel => { c with mbc := c.mbc.setClock sel v }

end Sys2Proof.Machine
end

