-- ==== Sys2Proof/Machine/Cycles.lean ====
section
/-!
DEFINITION. The base costs: the default table of 70_reset R452, and the cost of an instruction under `P_CYCLES`.
-/

namespace Sys2Proof.Machine

/-- The default of `P_CYCLES` (70_reset R452), given whether the condition of a conditional instruction holds. STOP, which does not run,
has none. -/
def defaultCost (i : Instr) (taken : Bool) : Nat :=
  match i with
  | .ldRR _ _ => 4
  | .ldRN _ _ => 8
  | .ldRHl _ => 8
  | .ldHlR _ => 8
  | .ldHlN _ => 12
  | .ldABc => 8
  | .ldADe => 8
  | .ldBcA => 8
  | .ldDeA => 8
  | .ldANn _ => 16
  | .ldNnA _ => 16
  | .ldhAN _ => 12
  | .ldhNA _ => 12
  | .ldhAC => 8
  | .ldhCA => 8
  | .ldHliA => 8
  | .ldAHli => 8
  | .ldHldA => 8
  | .ldAHld => 8
  | .ldRrNn _ _ => 12
  | .ldNnSp _ => 20
  | .ldSpHl => 8
  | .ldHlSpE _ => 12
  | .pushRr _ => 16
  | .pushAf => 16
  | .popAf => 12
  | .popRr _ => 12
  | .addAR _ => 4
  | .addAHl => 8
  | .addAN _ => 8
  | .adcAR _ => 4
  | .adcAHl => 8
  | .adcAN _ => 8
  | .subR _ => 4
  | .subHl => 8
  | .subN _ => 8
  | .sbcAR _ => 4
  | .sbcAHl => 8
  | .sbcAN _ => 8
  | .andR _ => 4
  | .andHl => 8
  | .andN _ => 8
  | .xorR _ => 4
  | .xorHl => 8
  | .xorN _ => 8
  | .orR _ => 4
  | .orHl => 8
  | .orN _ => 8
  | .cpR _ => 4
  | .cpHl => 8
  | .cpN _ => 8
  | .incR _ => 4
  | .incHl => 12
  | .decR _ => 4
  | .decHl => 12
  | .daa => 4
  | .cpl => 4
  | .scf => 4
  | .ccf => 4
  | .addHlRr _ => 8
  | .incRr _ => 8
  | .decRr _ => 8
  | .addSpE _ => 16
  | .rlca => 4
  | .rrca => 4
  | .rla => 4
  | .rra => 4
  | .rlcR _ => 8
  | .rlcHl => 16
  | .rrcR _ => 8
  | .rrcHl => 16
  | .rlR _ => 8
  | .rlHl => 16
  | .rrR _ => 8
  | .rrHl => 16
  | .slaR _ => 8
  | .slaHl => 16
  | .sraR _ => 8
  | .sraHl => 16
  | .swapR _ => 8
  | .swapHl => 16
  | .srlR _ => 8
  | .srlHl => 16
  | .bitBR _ _ => 8
  | .bitBHl _ => 12
  | .resBR _ _ => 8
  | .resBHl _ => 16
  | .setBR _ _ => 8
  | .setBHl _ => 16
  | .jpNn _ => 16
  | .jpCcNn _ _ => if taken then 16 else 12
  | .jpHl => 4
  | .jrE _ => 12
  | .jrCcE _ _ => if taken then 12 else 8
  | .callNn _ => 24
  | .callCcNn _ _ => if taken then 24 else 12
  | .ret => 16
  | .retCc _ => if taken then 20 else 8
  | .reti => 16
  | .rst _ => 16
  | .nop => 4
  | .halt => 4
  | .stop _ => 0
  | .di => 4
  | .ei => 4

/-- The base cost of an instruction: its row of `P_CYCLES` where the parameter gives one, else the default (00_scope R12;
70_reset R452). -/
def Params.cost (p : Params) (i : Instr) (taken : Bool := true) : Nat :=
  match p.cycles.find? fun row => row.rule == i.rule with
  | some row => if taken then row.taken else row.notTaken
  | none => defaultCost i taken

end Sys2Proof.Machine
end

