-- ==== Sys2Proof/Machine/Flags.lean ====
section
/-!
DEFINITION. The flags codec and every result and flag computation of 42_alu8, 43_alu16 and 44_rotate_shift_bit, as functions of bytes,
words and flags.
-/

namespace Sys2Proof.Machine

/-- `flags_to_byte` (10_state R44). -/
def flagsToByte (f : Flags) : Byte :=
  BitVec.ofBool f.z ++ BitVec.ofBool f.n ++ BitVec.ofBool f.h ++ BitVec.ofBool f.c ++ 0#4

/-- `byte_to_flags` (10_state R44). -/
def byteToFlags (b : Byte) : Flags := ⟨b.getLsbD 7, b.getLsbD 6, b.getLsbD 5, b.getLsbD 4⟩

/-- The eight operations on the accumulator (30_encoding R164). -/
inductive AluOp where
  | add | adc | sub | sbc | and | xor | or | cp
  deriving DecidableEq, Repr

/-- `a + v + c` with the flags of ADD and ADC (42_alu8 R261, R264). -/
def addBytes (a v : Byte) (c : Bool) : Byte × Flags :=
  let r := a.toNat + v.toNat + c.toNat
  (BitVec.ofNat 8 r,
   { z := decide (r % 256 = 0), n := false, h := decide (a.toNat % 16 + v.toNat % 16 + c.toNat > 0x0F), c := decide (r > 0xFF) })

/-- A flag in arithmetic: 1 when true, 0 when false (00_scope R14). -/
def flagByte (c : Bool) : Byte := (BitVec.ofBool c).setWidth 8

/-- `a - v - c` with the flags of SUB, SBC and CP (42_alu8 R267, R270, R282). -/
def subBytes (a v : Byte) (c : Bool) : Byte × Flags :=
  let r := a - v - flagByte c
  (r,
   { z := decide (r = 0#8), n := true, h := decide (a.toNat % 16 < v.toNat % 16 + c.toNat), c := decide (a.toNat < v.toNat + c.toNat) })

/-- A bitwise result with Z computed, N and C clear, and H as given (42_alu8 R273, R276, R279). -/
def logicBytes (r : Byte) (h : Bool) : Byte × Flags := (r, { z := decide (r = 0#8), n := false, h := h, c := false })

/-- What A becomes and the flags, for an operation on A and an operand with the carry in (42_alu8 R261 to R284). CP leaves A. -/
def alu (op : AluOp) (a v : Byte) (c : Bool) : Byte × Flags :=
  match op with
  | .add => addBytes a v false
  | .adc => addBytes a v c
  | .sub => subBytes a v false
  | .sbc => subBytes a v c
  | .and => logicBytes (a &&& v) true
  | .xor => logicBytes (a ^^^ v) false
  | .or => logicBytes (a ||| v) false
  | .cp => (a, (subBytes a v false).2)

/-- INC of a byte; C is unchanged (42_alu8 R285). -/
def incByte (v : Byte) (f : Flags) : Byte × Flags :=
  (v + 1#8, { z := decide (v + 1#8 = 0#8), n := false, h := decide (v.toNat % 16 = 0x0F), c := f.c })

/-- DEC of a byte; C is unchanged (42_alu8 R287). -/
def decByte (v : Byte) (f : Flags) : Byte × Flags :=
  (v - 1#8, { z := decide (v - 1#8 = 0#8), n := true, h := decide (v.toNat % 16 = 0), c := f.c })

/-- DAA: A and the flags after the decimal adjustment (42_alu8 R289), step by step as the rule's pseudocode. Integers never fall
below 0 here because a subtraction is of a byte modulo 256. -/
def daaByte (a : Byte) (f : Flags) : Byte × Flags :=
  let high := f.c || decide (a.toNat > 0x99)
  let low := f.h || decide (a.toNat % 16 > 0x09)
  let r :=
    if f.n then a - (if f.c then 0x60#8 else 0#8) - (if f.h then 0x06#8 else 0#8)
    else a + (if high then 0x60#8 else 0#8) + (if low then 0x06#8 else 0#8)
  (r, { z := decide (r = 0#8), n := f.n, h := false, c := if f.n then f.c else high })

/-- The eight rotate and shift operations (30_encoding R164). -/
inductive ShiftOp where
  | rlc | rrc | rl | rr | sla | sra | swap | srl
  deriving DecidableEq, Repr

/-- The result and the carry out of a rotate or shift of a byte with the carry in (44_rotate_shift_bit R325 to R340). -/
def shift (op : ShiftOp) (v : Byte) (c : Bool) : Byte × Bool :=
  let bit7 := v.getLsbD 7
  let bit0 := v.getLsbD 0
  match op with
  | .rlc => (v.extractLsb' 0 7 ++ BitVec.ofBool bit7, bit7)
  | .rrc => (BitVec.ofBool bit0 ++ v.extractLsb' 1 7, bit0)
  | .rl => (v.extractLsb' 0 7 ++ BitVec.ofBool c, bit7)
  | .rr => (BitVec.ofBool c ++ v.extractLsb' 1 7, bit0)
  | .sla => (v.extractLsb' 0 7 ++ 0#1, bit7)
  | .sra => (BitVec.ofBool bit7 ++ v.extractLsb' 1 7, bit0)
  | .swap => (v.extractLsb' 0 4 ++ v.extractLsb' 4 4, false)
  | .srl => (0#1 ++ v.extractLsb' 1 7, bit0)

/-- A prefixed rotate or shift: the result, Z computed, N and H clear, C the bit shifted out (44_rotate_shift_bit R325). -/
def shiftByte (op : ShiftOp) (v : Byte) (f : Flags) : Byte × Flags :=
  let r := shift op v f.c
  (r.1, { z := decide (r.1 = 0#8), n := false, h := false, c := r.2 })

/-- A rotate of A by its one-byte form: as the prefixed form, with Z always 0 (44_rotate_shift_bit R321). -/
def rotateA (op : ShiftOp) (v : Byte) (f : Flags) : Byte × Flags :=
  let r := shift op v f.c
  (r.1, { z := false, n := false, h := false, c := r.2 })

/-- The flags of BIT: Z the complement of the bit, C unchanged (44_rotate_shift_bit R341). -/
def bitFlags (b : BitVec 3) (v : Byte) (f : Flags) : Flags :=
  { z := !v.getLsbD b.toNat, n := false, h := true, c := f.c }

/-- RES: the byte with a bit cleared (44_rotate_shift_bit R343). -/
def clearBit (b : BitVec 3) (v : Byte) : Byte := v &&& ~~~(1#8 <<< b.toNat)

/-- SET: the byte with a bit set (44_rotate_shift_bit R345). -/
def setBit (b : BitVec 3) (v : Byte) : Byte := v ||| (1#8 <<< b.toNat)

/-- `hl + v` with the flags of ADD HL,rr: carries out of bits 11 and 15, Z unchanged (43_alu16 R311). -/
def addWords (hl v : Word) (f : Flags) : Word × Flags :=
  (hl + v,
   { z := f.z, n := false, h := decide (hl.toNat % 0x1000 + v.toNat % 0x1000 > 0x0FFF), c := decide (hl.toNat + v.toNat > 0xFFFF) })

/-- `sp + e` with the flags of LD HL,SP+e and ADD SP,e: the sum is signed, the carries are of the unsigned low bytes
(41_load16 R244; 43_alu16 R314). -/
def addSpDisp (sp : Word) (e : Byte) : Word × Flags :=
  (sp + sext16 e,
   { z := false, n := false, h := decide (sp.toNat % 16 + e.toNat % 16 > 0x0F), c := decide (sp.toNat % 256 + e.toNat > 0xFF) })

end Sys2Proof.Machine
end

