-- ==== Sys2Proof/Machine/Ops.lean ====
section
/-!
DEFINITION. The named operations over registers and the bus, and the ones that several instructions share: pushing and popping, taking
an interrupt and returning from one, and handing the next PC to the engine.
-/

namespace Sys2Proof.Machine

/-- The outcomes of an instruction and of a step. -/
abbrev Out := Host.Outcome State Fault Refusal

/-! ### Registers -/

/-- `x[r]` (00_scope R14). -/
def Cpu.get (u : Cpu) (r : Reg) : Byte :=
  match r with
  | .a => u.a
  | .b => u.b
  | .c => u.c
  | .d => u.d
  | .e => u.e
  | .h => u.h
  | .l => u.l

/-- `x[r] <- v` (00_scope R14). -/
def Cpu.set (u : Cpu) (r : Reg) (v : Byte) : Cpu :=
  match r with
  | .a => { u with a := v }
  | .b => { u with b := v }
  | .c => { u with c := v }
  | .d => { u with d := v }
  | .e => { u with e := v }
  | .h => { u with h := v }
  | .l => { u with l := v }

/-- The high register of a pair (10_state R45). -/
def Pair.hi : Pair → Reg
  | .bc => .b
  | .de => .d
  | .hl => .h

/-- The low register of a pair (10_state R45). -/
def Pair.lo : Pair → Reg
  | .bc => .c
  | .de => .e
  | .hl => .l

/-- `x[rr]` (10_state R45). -/
def Cpu.pair (u : Cpu) (p : Pair) : Word := wordOf (u.get (Pair.hi p)) (u.get (Pair.lo p))

/-- `x[rr] <- v` (10_state R45). -/
def Cpu.setPair (u : Cpu) (p : Pair) (v : Word) : Cpu := (u.set (Pair.hi p) (hiByte v)).set (Pair.lo p) (loByte v)

/-- Write one register. -/
def State.setReg (s : State) (r : Reg) (v : Byte) : State := { s with cpu := s.cpu.set r v }

/-- Write a pair. -/
def State.setPair (s : State) (p : Pair) (v : Word) : State := { s with cpu := s.cpu.setPair p v }

/-- Write the four flags. -/
def State.setFlags (s : State) (f : Flags) : State := { s with cpu := { s.cpu with flags := f } }

/-- `SP <- v`. -/
def State.setSp (s : State) (v : Word) : State := { s with cpu := { s.cpu with sp := v } }

/-- `PC <- v`. -/
def State.setPc (s : State) (v : Word) : State := { s with cpu := { s.cpu with pc := v } }

/-- `halted <- b`. -/
def State.setHalted (s : State) (b : Bool) : State := { s with cpu := { s.cpu with halted := b } }

/-- `ime <- b`. -/
def State.setIme (s : State) (b : Bool) : State := { s with cpu := { s.cpu with ime := b } }

/-- `ei_pending <- b`. -/
def State.setEiPending (s : State) (b : Bool) : State := { s with cpu := { s.cpu with eiPending := b } }

/-- `enable_after <- b`. -/
def State.setEnableAfter (s : State) (b : Bool) : State := { s with cpu := { s.cpu with enableAfter := b } }

/-- `if_ <- v`. -/
def State.setIflag (s : State) (v : BitVec 5) : State := { s with bus := { s.bus with iflag := v } }

/-- Emit a base cost on the port `cycles` (60_exceptions R401, step 5). -/
def State.setCycles (s : State) (n : Nat) : State := { s with ports := { s.ports with cycles := n } }

/-- `surcharge <- n` (60_exceptions R401, step 8). -/
def State.setSurcharge (s : State) (n : Nat) : State := { s with ports := { s.ports with surcharge := n } }

/-- The cost in `Ok(base + surcharge)`, once a step has ended (60_exceptions R401, step 9). -/
def State.reported (s : State) : Nat := s.ports.cycles + s.ports.surcharge

/-! ### The region router -/

/-- The regions of the address space (20_memory R83). -/
inductive Region where
  | boot | cartRom | cartRam | wram | echo | p1 | ifReg | bootDisable | hram | ieReg
  | external (area : ExtArea)
  deriving DecidableEq, Repr

/-- The region of an address (20_memory R84). -/
def route (bootActive : Bool) (addr : Word) : Region :=
  let a := addr.toNat
  if a ≤ 0x00FF then (if bootActive then .boot else .cartRom)
  else if a ≤ 0x7FFF then .cartRom
  else if a ≤ 0x9FFF then .external .vram
  else if a ≤ 0xBFFF then .cartRam
  else if a ≤ 0xDFFF then .wram
  else if a ≤ 0xFDFF then .echo
  else if a ≤ 0xFE9F then .external .oam
  else if a ≤ 0xFEFF then .external .unusable
  else if a = 0xFF00 then .p1
  else if a = 0xFF0F then .ifReg
  else if a = 0xFF50 then .bootDisable
  else if a ≤ 0xFF7F then .external .io
  else if a ≤ 0xFFFE then .hram
  else .ieReg

/-- The offset into WRAM of an address of WRAM or of its echo (20_memory R84, R89). -/
def wramOffset (addr : Word) : Nat := (addr.toNat - 0xC000) % 0x2000

/-- The offset into HRAM of an address (20_memory R84). -/
def hramOffset (addr : Word) : Nat := addr.toNat - 0xFF80

/-- The direction group of P1, 1 = pressed (20_memory R110). -/
def Buttons.directions (b : Buttons) : BitVec 4 :=
  BitVec.ofBool b.down ++ BitVec.ofBool b.up ++ BitVec.ofBool b.left ++ BitVec.ofBool b.right

/-- The action group of P1, 1 = pressed (20_memory R110). -/
def Buttons.actions (b : Buttons) : BitVec 4 :=
  BitVec.ofBool b.start ++ BitVec.ofBool b.select ++ BitVec.ofBool b.b ++ BitVec.ofBool b.a

/-- `P1Read(sel, buttons)` (20_memory R110). -/
def p1Read (sel : BitVec 2) (b : Buttons) : Byte :=
  let dir := if sel.getLsbD 0 then 0#4 else Buttons.directions b
  let act := if sel.getLsbD 1 then 0#4 else Buttons.actions b
  0b11#2 ++ sel ++ ~~~(dir ||| act)

/-- The byte the block itself gives for a read of an address, or `none` where the read is a draw: an External region, 0xFF50, or a
clock register under `P_RTC_MODEL = draw` (20_memory R84, R85). -/
def peek (addr : Word) (s : State) : Option Byte :=
  match route s.bus.bootActive addr with
  | .boot => some (imageByte (s.params.boot.getD []) addr.toNat)
  | .cartRom => some (cartRead s.params s.cart addr)
  | .cartRam => cartReadRam s.params s.cart addr
  | .wram => some (ramByte .wram s.bus.wram (wramOffset addr))
  | .echo => some (ramByte .wram s.bus.wram (wramOffset addr))
  | .p1 => some (p1Read s.bus.p1Select s.ports.input.buttons)
  | .ifReg => some (0b111#3 ++ s.bus.iflag)
  | .bootDisable => none
  | .hram => some (ramByte .hram s.bus.hram (hramOffset addr))
  | .ieReg => some s.bus.ie
  | .external _ => none

/-- The area whose collaborator sees an access to an address, if any (00_scope R10; 20_memory R84). -/
def extAreaRead (addr : Word) (s : State) : Option ExtArea :=
  match route s.bus.bootActive addr with
  | .external x => some x
  | .bootDisable => some .io
  | _ => none

/-- Take the next draw of a byte: the script's next answer, or a fresh free value (20_memory R85; log entry 4). -/
def drawByte (s : State) : Byte × State :=
  match s.ports.bytes with
  | v :: rest => (v, { s with ports := { s.ports with bytes := rest } })
  | [] => (Config.drawnByte s.ports.draws, { s with ports := { s.ports with draws := s.ports.draws + 1 } })

/-- Record an External access on the step's port (00_scope R10). -/
def State.report (s : State) (x : ExtAccess) : State := { s with ports := { s.ports with ext := s.ports.ext ++ [x] } }

/-- `MemRead(addr, 1)` (20_memory R85): the block's own byte with nothing changed, or a draw. -/
def memRead (addr : Word) (s : State) : Byte × State :=
  match peek addr s with
  | some v => (v, s)
  | none =>
    match extAreaRead addr s with
    | some area => drawByte (s.report (.read area addr))
    | none => drawByte s

/-- `MemWrite(addr, 1, v)` (20_memory R86). -/
def memWrite (addr : Word) (v : Byte) (s : State) : State :=
  match route s.bus.bootActive addr with
  | .boot => { s with cart := { s.cart with mbc := s.cart.mbc.write addr v } }
  | .cartRom => { s with cart := { s.cart with mbc := s.cart.mbc.write addr v } }
  | .cartRam => { s with cart := cartWriteRam s.params s.cart addr v }
  | .wram => { s with bus := { s.bus with wram := s.bus.wram.put (wramOffset addr) v } }
  | .echo => { s with bus := { s.bus with wram := s.bus.wram.put (wramOffset addr) v } }
  | .p1 => { s with bus := { s.bus with p1Select := v.extractLsb' 4 2 } }
  | .ifReg => { s with bus := { s.bus with iflag := v.extractLsb' 0 5 } }
  | .bootDisable => { s with bus := { s.bus with bootActive := false } }
  | .hram => { s with bus := { s.bus with hram := s.bus.hram.put (hramOffset addr) v } }
  | .ieReg => { s with bus := { s.bus with ie := v } }
  | .external area => s.report (.write area addr v)

/-- `MemRead16(addr)`, the low byte first (20_memory R90). -/
def memRead16 (addr : Word) (s : State) : Word × State :=
  let lo := memRead addr s
  let hi := memRead (addr + 1#16) lo.2
  (wordOf hi.1 lo.1, hi.2)

/-- `MemWrite16(addr, v)`, the low byte first (20_memory R90). -/
def memWrite16 (addr : Word) (v : Word) (s : State) : State :=
  memWrite (addr + 1#16) (hiByte v) (memWrite addr (loByte v) s)

/-- `Push16(v)`: the high byte at SP-1, then the low byte at SP-2 (20_memory R91). -/
def push16 (v : Word) (s : State) : State :=
  let s1 := s.setSp (s.cpu.sp - 1#16)
  let s2 := memWrite s1.cpu.sp (hiByte v) s1
  let s3 := s2.setSp (s2.cpu.sp - 1#16)
  memWrite s3.cpu.sp (loByte v) s3

/-- `Pop16()`: the low byte at SP, then the high byte at SP+1 (20_memory R91). -/
def pop16 (s : State) : Word × State :=
  let lo := memRead s.cpu.sp s
  let s1 := lo.2.setSp (lo.2.cpu.sp + 1#16)
  let hi := memRead s1.cpu.sp s1
  (wordOf hi.1 lo.1, hi.2.setSp (hi.2.cpu.sp + 1#16))

/-! ### Interrupts -/

/-- The lines the evaluator services, in their order of priority (60_exceptions R405, R411). -/
inductive Line where
  | vblank | lcdStat | timer
  deriving DecidableEq, Repr

/-- The line's bit in IE and IF (60_exceptions R411). -/
def Line.bit : Line → Nat
  | .vblank => 0
  | .lcdStat => 1
  | .timer => 2

/-- The line's vector, `0x0040 + 8 * bit` (60_exceptions R401, R411). -/
def Line.vector (l : Line) : Word := BitVec.ofNat 16 (0x0040 + 8 * l.bit)

/-- The line is pending: its bit is 1 in both IE and IF (60_exceptions R403). -/
def State.pending (s : State) (l : Line) : Bool := s.bus.ie.getLsbD l.bit && s.bus.iflag.getLsbD l.bit

/-- The pending line of the highest priority (60_exceptions R410). -/
def State.firstPending (s : State) : Option Line :=
  if s.pending .vblank then some .vblank
  else if s.pending .lcdStat then some .lcdStat
  else if s.pending .timer then some .timer
  else none

/-- `ie & if_ & 0x07 != 0` (60_exceptions R401, step 6). -/
def State.anyPending (s : State) : Bool := s.pending .vblank || s.pending .lcdStat || s.pending .timer

/-- The interrupt surcharge (60_exceptions R405). -/
def entrySurcharge : Nat := 12

/-- Taking an interrupt (60_exceptions R405): clear the line's request, clear `ime`, push PC, go to the vector, set the surcharge.
No flag and no register is saved. -/
def enterInterrupt (l : Line) (s : State) : State :=
  let s1 := s.setIflag (s.bus.iflag &&& ~~~(1#5 <<< l.bit))
  let s2 := s1.setIme false
  let s3 := push16 s2.cpu.pc s2
  (s3.setPc l.vector).setSurcharge entrySurcharge

/-- Returning from an interrupt: the popped PC, and `ime` set at once; nothing else is restored (60_exceptions R408;
45_control R370). -/
def returnFromInterrupt (s : State) : Word × State :=
  let p := pop16 s
  (p.1, p.2.setIme true)

/-! ### Completing an instruction -/

/-- The instruction completes: `next_pc <- target` and its base cost. The engine commits the PC (60_exceptions R401, step 7;
log entry 23). -/
def goTo (target : Word) (cost : Nat) (s : State) : Out := .next ((s.setPc target).setCycles cost)

/-- The instruction completes with `next_pc <- wrap16(PC + length)` and its base cost. -/
def finish (length : Word) (cost : Nat) (s : State) : Out := goTo (s.cpu.pc + length) cost s

end Sys2Proof.Machine
end

