-- ==== Sys2Proof/Machine/Operands.lean ====
section
/-!
DEFINITION. The operand forms: the four multiplexers of 10_state R49 to R52, and the ways several instructions take operands and put
results back.
-/

namespace Sys2Proof.Machine

/-- `x[HL]`. -/
def State.hl (s : State) : Word := s.cpu.pair .hl

/-- `r8(k)` read: a register, or the byte at HL (10_state R49). -/
def r8 (r : R8) (s : State) : Byte × State :=
  match r with
  | .reg r => (s.cpu.get r, s)
  | .ind => memRead s.hl s

/-- `r8(k) <- v` (10_state R49). -/
def setR8 (r : R8) (v : Byte) (s : State) : State :=
  match r with
  | .reg r => s.setReg r v
  | .ind => memWrite s.hl v s

/-- `r16(rr)` read (10_state R50). -/
def r16 (rr : R16) (s : State) : Word :=
  match rr with
  | .pair p => s.cpu.pair p
  | .sp => s.cpu.sp

/-- `r16(rr) <- v` (10_state R50). -/
def setR16 (rr : R16) (v : Word) (s : State) : State :=
  match rr with
  | .pair p => s.setPair p v
  | .sp => s.setSp v

/-- AF as the pushed word: the low four bits are 0 (10_state R44, R46). -/
def State.af (s : State) : Word := wordOf s.cpu.a (flagsToByte s.cpu.flags)

/-- `AF <- v`: the low four bits are dropped (10_state R44, R46). -/
def State.setAf (s : State) (v : Word) : State := (s.setReg .a (hiByte v)).setFlags (byteToFlags (loByte v))

/-- `r16stk(qq)` read (10_state R51). -/
def r16stk (qq : StkPair) (s : State) : Word :=
  match qq with
  | .pair p => s.cpu.pair p
  | .af => s.af

/-- `r16stk(qq) <- v` (10_state R51). -/
def setR16stk (qq : StkPair) (v : Word) (s : State) : State :=
  match qq with
  | .pair p => s.setPair p v
  | .af => s.setAf v

/-- `cond(cc)` (10_state R52). -/
def condition (cc : Cond) (f : Flags) : Bool :=
  match cc with
  | .nz => !f.z
  | .z => f.z
  | .nc => !f.c
  | .c => f.c

/-- `0xFF00 + n`, the high page (40_load8 R212, R214). -/
def highPage (n : Byte) : Word := 0xFF00#16 + zext16 n

/-- Load A from an address. -/
def loadA (addr : Word) (s : State) : State :=
  let v := memRead addr s
  v.2.setReg .a v.1

/-- Store A at an address. -/
def storeA (addr : Word) (s : State) : State := memWrite addr s.cpu.a s

/-- Put an operation of A and a byte into A and the flags; CP leaves A (42_alu8 R261 to R284). -/
def accumulate (op : AluOp) (v : Byte) (s : State) : State :=
  let q := alu op s.cpu.a v s.cpu.flags.c
  (s.setReg .a q.1).setFlags q.2

/-- Replace an operand by a function of it, and write the flags: one read, then one write at the same place
(20_memory R93). -/
def modifyOperand (f : Byte → Flags → Byte × Flags) (r : R8) (s : State) : State :=
  let v := r8 r s
  let q := f v.1 v.2.cpu.flags
  (setR8 r q.1 v.2).setFlags q.2

end Sys2Proof.Machine
end

