-- ==== Sys2Proof/Machine/Alu16.lean ====
section
/-!
DEFINITION. The meanings of the 16-bit arithmetic instructions (43_alu16).
-/

namespace Sys2Proof.Machine

/-- `ADD HL, rr` (R311). -/
def execAddHlRr (rr : R16) (s : State) : Out :=
  let q := addWords s.hl (r16 rr s) s.cpu.flags
  finish 1#16 (s.params.cost (.addHlRr rr)) ((s.setPair .hl q.1).setFlags q.2)

/-- `INC rr` (R312). -/
def execIncRr (rr : R16) (s : State) : Out := finish 1#16 (s.params.cost (.incRr rr)) (setR16 rr (r16 rr s + 1#16) s)

/-- `DEC rr` (R313). -/
def execDecRr (rr : R16) (s : State) : Out := finish 1#16 (s.params.cost (.decRr rr)) (setR16 rr (r16 rr s - 1#16) s)

/-- `ADD SP, e` (R314). -/
def execAddSpE (e : Byte) (s : State) : Out :=
  let q := addSpDisp s.cpu.sp e
  finish 2#16 (s.params.cost (.addSpE e)) ((s.setSp q.1).setFlags q.2)

end Sys2Proof.Machine
end

