-- ==== Sys2Proof/Machine/Alu8.lean ====
section
/-!
DEFINITION. The meanings of the 8-bit arithmetic and logic instructions (42_alu8).
-/

namespace Sys2Proof.Machine

/-- An operation on A with an operand of the field sss (R261). -/
def aluR8 (op : AluOp) (r : R8) (cost : Nat) (s : State) : Out :=
  let v := r8 r s
  finish 1#16 cost (accumulate op v.1 v.2)

/-- An operation on A with the byte at HL (R262). -/
def aluHl (op : AluOp) (cost : Nat) (s : State) : Out :=
  let v := memRead s.hl s
  finish 1#16 cost (accumulate op v.1 v.2)

/-- An operation on A with an immediate byte (R263). -/
def aluImm (op : AluOp) (n : Byte) (cost : Nat) (s : State) : Out := finish 2#16 cost (accumulate op n s)

/-- `ADD A, r` (R261). -/
def execAddAR (r : R8) (s : State) : Out := aluR8 .add r (s.params.cost (.addAR r)) s

/-- `ADD A, (HL)` (R262). -/
def execAddAHl (s : State) : Out := aluHl .add (s.params.cost .addAHl) s

/-- `ADD A, n` (R263). -/
def execAddAN (n : Byte) (s : State) : Out := aluImm .add n (s.params.cost (.addAN n)) s

/-- `ADC A, r` (R264). -/
def execAdcAR (r : R8) (s : State) : Out := aluR8 .adc r (s.params.cost (.adcAR r)) s

/-- `ADC A, (HL)` (R265). -/
def execAdcAHl (s : State) : Out := aluHl .adc (s.params.cost .adcAHl) s

/-- `ADC A, n` (R266). -/
def execAdcAN (n : Byte) (s : State) : Out := aluImm .adc n (s.params.cost (.adcAN n)) s

/-- `SUB r` (R267). -/
def execSubR (r : R8) (s : State) : Out := aluR8 .sub r (s.params.cost (.subR r)) s

/-- `SUB (HL)` (R268). -/
def execSubHl (s : State) : Out := aluHl .sub (s.params.cost .subHl) s

/-- `SUB n` (R269). -/
def execSubN (n : Byte) (s : State) : Out := aluImm .sub n (s.params.cost (.subN n)) s

/-- `SBC A, r` (R270). -/
def execSbcAR (r : R8) (s : State) : Out := aluR8 .sbc r (s.params.cost (.sbcAR r)) s

/-- `SBC A, (HL)` (R271). -/
def execSbcAHl (s : State) : Out := aluHl .sbc (s.params.cost .sbcAHl) s

/-- `SBC A, n` (R272). -/
def execSbcAN (n : Byte) (s : State) : Out := aluImm .sbc n (s.params.cost (.sbcAN n)) s

/-- `AND r` (R273). -/
def execAndR (r : R8) (s : State) : Out := aluR8 .and r (s.params.cost (.andR r)) s

/-- `AND (HL)` (R274). -/
def execAndHl (s : State) : Out := aluHl .and (s.params.cost .andHl) s

/-- `AND n` (R275). -/
def execAndN (n : Byte) (s : State) : Out := aluImm .and n (s.params.cost (.andN n)) s

/-- `XOR r` (R276). -/
def execXorR (r : R8) (s : State) : Out := aluR8 .xor r (s.params.cost (.xorR r)) s

/-- `XOR (HL)` (R277). -/
def execXorHl (s : State) : Out := aluHl .xor (s.params.cost .xorHl) s

/-- `XOR n` (R278). -/
def execXorN (n : Byte) (s : State) : Out := aluImm .xor n (s.params.cost (.xorN n)) s

/-- `OR r` (R279). -/
def execOrR (r : R8) (s : State) : Out := aluR8 .or r (s.params.cost (.orR r)) s

/-- `OR (HL)` (R280). -/
def execOrHl (s : State) : Out := aluHl .or (s.params.cost .orHl) s

/-- `OR n` (R281). -/
def execOrN (n : Byte) (s : State) : Out := aluImm .or n (s.params.cost (.orN n)) s

/-- `CP r` (R282). -/
def execCpR (r : R8) (s : State) : Out := aluR8 .cp r (s.params.cost (.cpR r)) s

/-- `CP (HL)` (R283). -/
def execCpHl (s : State) : Out := aluHl .cp (s.params.cost .cpHl) s

/-- `CP n` (R284). -/
def execCpN (n : Byte) (s : State) : Out := aluImm .cp n (s.params.cost (.cpN n)) s

/-- `INC r` (R285). -/
def execIncR (d : R8) (s : State) : Out := finish 1#16 (s.params.cost (.incR d)) (modifyOperand incByte d s)

/-- `INC (HL)` (R286). -/
def execIncHl (s : State) : Out := finish 1#16 (s.params.cost .incHl) (modifyOperand incByte .ind s)

/-- `DEC r` (R287). -/
def execDecR (d : R8) (s : State) : Out := finish 1#16 (s.params.cost (.decR d)) (modifyOperand decByte d s)

/-- `DEC (HL)` (R288). -/
def execDecHl (s : State) : Out := finish 1#16 (s.params.cost .decHl) (modifyOperand decByte .ind s)

/-- `DAA` (R289). -/
def execDaa (s : State) : Out := finish 1#16 (s.params.cost .daa) (modifyOperand daaByte (.reg .a) s)

/-- `CPL` (R290). -/
def execCpl (s : State) : Out :=
  finish 1#16 (s.params.cost .cpl) ((s.setReg .a (~~~s.cpu.a)).setFlags { s.cpu.flags with n := true, h := true })

/-- `SCF` (R291). -/
def execScf (s : State) : Out := finish 1#16 (s.params.cost .scf) (s.setFlags { s.cpu.flags with n := false, h := false, c := true })

/-- `CCF` (R292). -/
def execCcf (s : State) : Out :=
  finish 1#16 (s.params.cost .ccf) (s.setFlags { s.cpu.flags with n := false, h := false, c := !s.cpu.flags.c })

end Sys2Proof.Machine
end

