-- ==== Sys2Proof/Machine/Control.lean ====
section
/-!
DEFINITION. The meanings of the jumps, calls, returns and restarts (45_control).
-/

namespace Sys2Proof.Machine

/-- Push the return address and go to a target (R366, R371). -/
def callTo (target : Word) (length : Word) (cost : Nat) (s : State) : Out :=
  goTo target cost (push16 (s.cpu.pc + length) s)

/-- Pop the next PC (R368). -/
def returnTo (cost : Nat) (s : State) : Out :=
  let p := pop16 s
  goTo p.1 cost p.2

/-- The target of a relative jump: `wrap16(PC + 2 + sext_16(e))` (R364). -/
def relative (e : Byte) (s : State) : Word := s.cpu.pc + 2#16 + sext16 e

/-- `JP nn` (R361). -/
def execJpNn (nn : Word) (s : State) : Out := goTo nn (s.params.cost (.jpNn nn)) s

/-- `JP cc, nn` (R362). -/
def execJpCcNn (cc : Cond) (nn : Word) (s : State) : Out :=
  if condition cc s.cpu.flags then goTo nn (s.params.cost (.jpCcNn cc nn)) s
  else finish 3#16 (s.params.cost (.jpCcNn cc nn) false) s

/-- `JP HL` (R363). -/
def execJpHl (s : State) : Out := goTo s.hl (s.params.cost .jpHl) s

/-- `JR e` (R364). -/
def execJrE (e : Byte) (s : State) : Out := goTo (relative e s) (s.params.cost (.jrE e)) s

/-- `JR cc, e` (R365). -/
def execJrCcE (cc : Cond) (e : Byte) (s : State) : Out :=
  if condition cc s.cpu.flags then goTo (relative e s) (s.params.cost (.jrCcE cc e)) s
  else finish 2#16 (s.params.cost (.jrCcE cc e) false) s

/-- `CALL nn` (R366). -/
def execCallNn (nn : Word) (s : State) : Out := callTo nn 3#16 (s.params.cost (.callNn nn)) s

/-- `CALL cc, nn` (R367). -/
def execCallCcNn (cc : Cond) (nn : Word) (s : State) : Out :=
  if condition cc s.cpu.flags then callTo nn 3#16 (s.params.cost (.callCcNn cc nn)) s
  else finish 3#16 (s.params.cost (.callCcNn cc nn) false) s

/-- `RET` (R368). -/
def execRet (s : State) : Out := returnTo (s.params.cost .ret) s

/-- `RET cc` (R369). -/
def execRetCc (cc : Cond) (s : State) : Out :=
  if condition cc s.cpu.flags then returnTo (s.params.cost (.retCc cc)) s
  else finish 1#16 (s.params.cost (.retCc cc) false) s

/-- `RETI` (R370; 60_exceptions R408). -/
def execReti (s : State) : Out :=
  let p := returnFromInterrupt s
  goTo p.1 (s.params.cost .reti) p.2

/-- `RST t` (R371). -/
def execRst (t : BitVec 3) (s : State) : Out := callTo (zext16 (t.setWidth 8 <<< 3)) 1#16 (s.params.cost (.rst t)) s

end Sys2Proof.Machine
end

