-- ==== Sys2Proof/Machine/Load16.lean ====
section
/-!
DEFINITION. The meanings of the 16-bit loads, PUSH and POP (41_load16).
-/

namespace Sys2Proof.Machine

/-- `LD rr, nn` (R241). -/
def execLdRrNn (rr : R16) (nn : Word) (s : State) : Out := finish 3#16 (s.params.cost (.ldRrNn rr nn)) (setR16 rr nn s)

/-- `LD (nn), SP` (R242). -/
def execLdNnSp (nn : Word) (s : State) : Out := finish 3#16 (s.params.cost (.ldNnSp nn)) (memWrite16 nn s.cpu.sp s)

/-- `LD SP, HL` (R243). -/
def execLdSpHl (s : State) : Out := finish 1#16 (s.params.cost .ldSpHl) (s.setSp s.hl)

/-- `LD HL, SP+e` (R244). -/
def execLdHlSpE (e : Byte) (s : State) : Out :=
  let q := addSpDisp s.cpu.sp e
  finish 2#16 (s.params.cost (.ldHlSpE e)) ((s.setPair .hl q.1).setFlags q.2)

/-- `PUSH rr` (R245). -/
def execPushRr (qq : StkPair) (s : State) : Out := finish 1#16 (s.params.cost (.pushRr qq)) (push16 (r16stk qq s) s)

/-- `PUSH AF` (R246). -/
def execPushAf (s : State) : Out := finish 1#16 (s.params.cost .pushAf) (push16 s.af s)

/-- `POP AF` (R247). -/
def execPopAf (s : State) : Out :=
  let p := pop16 s
  finish 1#16 (s.params.cost .popAf) (p.2.setAf p.1)

/-- `POP rr` (R248). -/
def execPopRr (qq : StkPair) (s : State) : Out :=
  let p := pop16 s
  finish 1#16 (s.params.cost (.popRr qq)) (setR16stk qq p.1 p.2)

end Sys2Proof.Machine
end

