-- ==== Sys2Proof/Machine/Load8.lean ====
section
/-!
DEFINITION. The meanings of the 8-bit loads and stores (40_load8). None of them writes a flag.
-/

namespace Sys2Proof.Machine

/-- `LD r, r'` (R201). -/
def execLdRR (d r : R8) (s : State) : Out :=
  let v := r8 r s
  finish 1#16 (s.params.cost (.ldRR d r)) (setR8 d v.1 v.2)

/-- `LD r, n` (R202). -/
def execLdRN (d : R8) (n : Byte) (s : State) : Out := finish 2#16 (s.params.cost (.ldRN d n)) (setR8 d n s)

/-- `LD r, (HL)` (R203). -/
def execLdRHl (d : R8) (s : State) : Out :=
  let v := memRead s.hl s
  finish 1#16 (s.params.cost (.ldRHl d)) (setR8 d v.1 v.2)

/-- `LD (HL), r` (R204). -/
def execLdHlR (r : R8) (s : State) : Out :=
  let v := r8 r s
  finish 1#16 (s.params.cost (.ldHlR r)) (memWrite s.hl v.1 v.2)

/-- `LD (HL), n` (R205). -/
def execLdHlN (n : Byte) (s : State) : Out := finish 2#16 (s.params.cost (.ldHlN n)) (memWrite s.hl n s)

/-- `LD A, (BC)` (R206). -/
def execLdABc (s : State) : Out := finish 1#16 (s.params.cost .ldABc) (loadA (s.cpu.pair .bc) s)

/-- `LD A, (DE)` (R207). -/
def execLdADe (s : State) : Out := finish 1#16 (s.params.cost .ldADe) (loadA (s.cpu.pair .de) s)

/-- `LD (BC), A` (R208). -/
def execLdBcA (s : State) : Out := finish 1#16 (s.params.cost .ldBcA) (storeA (s.cpu.pair .bc) s)

/-- `LD (DE), A` (R209). -/
def execLdDeA (s : State) : Out := finish 1#16 (s.params.cost .ldDeA) (storeA (s.cpu.pair .de) s)

/-- `LD A, (nn)` (R210). -/
def execLdANn (nn : Word) (s : State) : Out := finish 3#16 (s.params.cost (.ldANn nn)) (loadA nn s)

/-- `LD (nn), A` (R211). -/
def execLdNnA (nn : Word) (s : State) : Out := finish 3#16 (s.params.cost (.ldNnA nn)) (storeA nn s)

/-- `LDH A, (n)` (R212). -/
def execLdhAN (n : Byte) (s : State) : Out := finish 2#16 (s.params.cost (.ldhAN n)) (loadA (highPage n) s)

/-- `LDH (n), A` (R213). -/
def execLdhNA (n : Byte) (s : State) : Out := finish 2#16 (s.params.cost (.ldhNA n)) (storeA (highPage n) s)

/-- `LDH A, (C)` (R214). -/
def execLdhAC (s : State) : Out := finish 1#16 (s.params.cost .ldhAC) (loadA (highPage s.cpu.c) s)

/-- `LDH (C), A` (R215). -/
def execLdhCA (s : State) : Out := finish 1#16 (s.params.cost .ldhCA) (storeA (highPage s.cpu.c) s)

/-- `LD (HL+), A` (R216). -/
def execLdHliA (s : State) : Out := finish 1#16 (s.params.cost .ldHliA) ((storeA s.hl s).setPair .hl (s.hl + 1#16))

/-- `LD A, (HL+)` (R217). -/
def execLdAHli (s : State) : Out := finish 1#16 (s.params.cost .ldAHli) ((loadA s.hl s).setPair .hl (s.hl + 1#16))

/-- `LD (HL-), A` (R218). -/
def execLdHldA (s : State) : Out := finish 1#16 (s.params.cost .ldHldA) ((storeA s.hl s).setPair .hl (s.hl - 1#16))

/-- `LD A, (HL-)` (R219). -/
def execLdAHld (s : State) : Out := finish 1#16 (s.params.cost .ldAHld) ((loadA s.hl s).setPair .hl (s.hl - 1#16))

end Sys2Proof.Machine
end

