-- ==== Sys2Proof/Machine/Rotate.lean ====
section
/-!
DEFINITION. The meanings of the rotates, shifts and bit instructions (44_rotate_shift_bit).
-/

namespace Sys2Proof.Machine

/-- `RLCA` (R321). -/
def execRlca (s : State) : Out := finish 1#16 (s.params.cost .rlca) (modifyOperand (rotateA .rlc) (.reg .a) s)

/-- `RRCA` (R322). -/
def execRrca (s : State) : Out := finish 1#16 (s.params.cost .rrca) (modifyOperand (rotateA .rrc) (.reg .a) s)

/-- `RLA` (R323). -/
def execRla (s : State) : Out := finish 1#16 (s.params.cost .rla) (modifyOperand (rotateA .rl) (.reg .a) s)

/-- `RRA` (R324). -/
def execRra (s : State) : Out := finish 1#16 (s.params.cost .rra) (modifyOperand (rotateA .rr) (.reg .a) s)

/-- `RLC r` (R325). -/
def execRlcR (r : R8) (s : State) : Out := finish 2#16 (s.params.cost (.rlcR r)) (modifyOperand (shiftByte .rlc) r s)

/-- `RLC (HL)` (R326). -/
def execRlcHl (s : State) : Out := finish 2#16 (s.params.cost .rlcHl) (modifyOperand (shiftByte .rlc) .ind s)

/-- `RRC r` (R327). -/
def execRrcR (r : R8) (s : State) : Out := finish 2#16 (s.params.cost (.rrcR r)) (modifyOperand (shiftByte .rrc) r s)

/-- `RRC (HL)` (R328). -/
def execRrcHl (s : State) : Out := finish 2#16 (s.params.cost .rrcHl) (modifyOperand (shiftByte .rrc) .ind s)

/-- `RL r` (R329). -/
def execRlR (r : R8) (s : State) : Out := finish 2#16 (s.params.cost (.rlR r)) (modifyOperand (shiftByte .rl) r s)

/-- `RL (HL)` (R330). -/
def execRlHl (s : State) : Out := finish 2#16 (s.params.cost .rlHl) (modifyOperand (shiftByte .rl) .ind s)

/-- `RR r` (R331). -/
def execRrR (r : R8) (s : State) : Out := finish 2#16 (s.params.cost (.rrR r)) (modifyOperand (shiftByte .rr) r s)

/-- `RR (HL)` (R332). -/
def execRrHl (s : State) : Out := finish 2#16 (s.params.cost .rrHl) (modifyOperand (shiftByte .rr) .ind s)

/-- `SLA r` (R333). -/
def execSlaR (r : R8) (s : State) : Out := finish 2#16 (s.params.cost (.slaR r)) (modifyOperand (shiftByte .sla) r s)

/-- `SLA (HL)` (R334). -/
def execSlaHl (s : State) : Out := finish 2#16 (s.params.cost .slaHl) (modifyOperand (shiftByte .sla) .ind s)

/-- `SRA r` (R335). -/
def execSraR (r : R8) (s : State) : Out := finish 2#16 (s.params.cost (.sraR r)) (modifyOperand (shiftByte .sra) r s)

/-- `SRA (HL)` (R336). -/
def execSraHl (s : State) : Out := finish 2#16 (s.params.cost .sraHl) (modifyOperand (shiftByte .sra) .ind s)

/-- `SWAP r` (R337). -/
def execSwapR (r : R8) (s : State) : Out := finish 2#16 (s.params.cost (.swapR r)) (modifyOperand (shiftByte .swap) r s)

/-- `SWAP (HL)` (R338). -/
def execSwapHl (s : State) : Out := finish 2#16 (s.params.cost .swapHl) (modifyOperand (shiftByte .swap) .ind s)

/-- `SRL r` (R339). -/
def execSrlR (r : R8) (s : State) : Out := finish 2#16 (s.params.cost (.srlR r)) (modifyOperand (shiftByte .srl) r s)

/-- `SRL (HL)` (R340). -/
def execSrlHl (s : State) : Out := finish 2#16 (s.params.cost .srlHl) (modifyOperand (shiftByte .srl) .ind s)

/-- `BIT b, r` (R341). -/
def execBitBR (b : BitVec 3) (r : R8) (s : State) : Out :=
  let v := r8 r s
  finish 2#16 (s.params.cost (.bitBR b r)) (v.2.setFlags (bitFlags b v.1 v.2.cpu.flags))

/-- `BIT b, (HL)` (R342). -/
def execBitBHl (b : BitVec 3) (s : State) : Out :=
  let v := memRead s.hl s
  finish 2#16 (s.params.cost (.bitBHl b)) (v.2.setFlags (bitFlags b v.1 v.2.cpu.flags))

/-- `RES b, r` (R343). -/
def execResBR (b : BitVec 3) (r : R8) (s : State) : Out :=
  finish 2#16 (s.params.cost (.resBR b r)) (modifyOperand (fun v f => (clearBit b v, f)) r s)

/-- `RES b, (HL)` (R344). -/
def execResBHl (b : BitVec 3) (s : State) : Out :=
  finish 2#16 (s.params.cost (.resBHl b)) (modifyOperand (fun v f => (clearBit b v, f)) .ind s)

/-- `SET b, r` (R345). -/
def execSetBR (b : BitVec 3) (r : R8) (s : State) : Out :=
  finish 2#16 (s.params.cost (.setBR b r)) (modifyOperand (fun v f => (setBit b v, f)) r s)

/-- `SET b, (HL)` (R346). -/
def execSetBHl (b : BitVec 3) (s : State) : Out :=
  finish 2#16 (s.params.cost (.setBHl b)) (modifyOperand (fun v f => (setBit b v, f)) .ind s)

end Sys2Proof.Machine
end

