-- ==== Sys2Proof/Machine/System.lean ====
section
/-!
DEFINITION. The meanings of NOP, HALT, STOP, DI and EI (46_system).
-/

namespace Sys2Proof.Machine

/-- `NOP` (R391). -/
def execNop (s : State) : Out := finish 1#16 (s.params.cost .nop) s

/-- `HALT` (R392): the engine commits the next PC only once `halted` is cleared. -/
def execHalt (s : State) : Out := finish 1#16 (s.params.cost .halt) (s.setHalted true)

/-- `STOP` (R393; 60_exceptions R407): the refusal carries the opcode and the PC. -/
def execStop (_n : Byte) (s : State) : Out := .refused (.unmodelled 0x10#8 s.cpu.pc)

/-- `DI` (R394): it also cancels an EI of the step before. -/
def execDi (s : State) : Out := finish 1#16 (s.params.cost .di) (((s.setIme false).setEiPending false).setEnableAfter false)

/-- `EI` (R395): with the delay, IME becomes 1 after the next instruction. -/
def execEi (s : State) : Out :=
  finish 1#16 (s.params.cost .ei) (if s.params.eiDelay then s.setEiPending true else s.setIme true)

end Sys2Proof.Machine
end

