-- ==== Sys2Proof/Machine/Engine.lean ====
section
/-!
DEFINITION. The stages of the step around the execution of an instruction (60_exceptions R401 to R407), and the placing of an
instruction where the next step fetches.
-/

namespace Sys2Proof.Machine

/-- The step's inputs arrive: the script's next ones, or fresh free values. The step's reports start empty (60_exceptions R404;
log entries 4 and 6). -/
def takeInput (s : State) : State :=
  match s.ports.inputs with
  | i :: rest => { s with ports := { s.ports with inputs := rest, input := i, ext := [], cycles := 0, surcharge := 0 } }
  | [] =>
    { s with
      ports :=
        { s.ports with
          draws := s.ports.draws + 1, input := Config.stepInput s.ports.draws, ext := [], cycles := 0, surcharge := 0 } }

/-- Steps 1 and 2 alone: the pair (prefixed, opcode) at an address, and the state after reading it (60_exceptions R401). -/
def readOpcode (pc : Word) (s : State) : (Bool × Byte) × State :=
  let b0 := memRead pc s
  if b0.1 = prefixByte then
    let op := memRead (pc + 1#16) b0.2
    ((true, op.1), op.2)
  else ((false, b0.1), b0.2)

/-- Read bytes at rising addresses, the lowest first (20_memory R101). -/
def readBytes : Nat → Word → State → List Byte × State
  | 0, _, s => ([], s)
  | k + 1, addr, s =>
    let b := memRead addr s
    let rest := readBytes k (addr + 1#16) b.2
    (b.1 :: rest.1, rest.2)

/-- The bytes of the instruction at an address, and the state after reading them. -/
def fetchBytes (pc : Word) (s : State) : List Byte × State :=
  let b0 := memRead pc s
  let rest := readBytes (bytesAfter b0.1) (pc + 1#16) b0.2
  (b0.1 :: rest.1, rest.2)

/-- The pair (prefixed, opcode) of an instruction's bytes (60_exceptions R401, step 2). -/
def opcodePair (bytes : List Byte) : Bool × Byte :=
  match bytes with
  | [] => (false, 0#8)
  | [b0] => (false, b0)
  | b0 :: b1 :: _ => if b0 = prefixByte then (true, b1) else (false, b0)

/-- The failure of a step whose pair has no mapping (60_exceptions R406). -/
def decodeFailure (pair : Bool × Byte) (pc : Word) : Fault := .decodeFailure pair.2 pair.1 pc

/-- Fetch and decode (60_exceptions R401, steps 1 to 3): the instruction and the state after its bytes are read, or the failure of
a pair that is unmapped or outside `P_DECODE_SET`. All of the instruction's bytes are read here, before its data accesses
(20_memory R101; log entry 9). -/
def fetch (pc : Word) (s : State) : Except Fault (Instr × State) :=
  let b := fetchBytes pc s
  if s.params.decodeOmits.contains (opcodePair b.1) then .error (decodeFailure (opcodePair b.1) pc)
  else
    match decode b.1 with
    | .ok (i, _) => .ok (i, b.2)
    | .error _ => .error (decodeFailure (opcodePair b.1) pc)

/-- The instruction of this step. While halted it is HALT and nothing is read (60_exceptions R402). -/
def nextInstr (s : State) : Except Fault (Instr × State) :=
  if s.cpu.halted then .ok (.halt, s) else fetch s.cpu.pc s

/-- Step 4a: the EI delay moves one step forward (60_exceptions R401). -/
def moveDelay (s : State) : State := (s.setEnableAfter s.cpu.eiPending).setEiPending false

/-- Step 4c: EI takes effect after the instruction that follows it (60_exceptions R401). -/
def applyEnable (s : State) : State := (if s.cpu.enableAfter then s.setIme true else s).setEnableAfter false

/-- Step 5: the requests of the step are merged into IF (60_exceptions R404). -/
def mergeReq (s : State) : State := s.setIflag (s.bus.iflag ||| s.ports.input.req.setWidth 5)

/-- Step 6: a pending line wakes the engine (60_exceptions R401, R403). -/
def wake (s : State) : State := if s.cpu.halted && s.anyPending then s.setHalted false else s

/-- Step 7: the PC takes `next_pc`, which the instruction left there, unless the engine is halted: then it stays where it was
(60_exceptions R401; log entry 23). -/
def commit (pc0 : Word) (s : State) : State := if s.cpu.halted then s.setPc pc0 else s

/-- Step 8: the interrupt line evaluator (60_exceptions R405, R410). -/
def service (s : State) : State :=
  if s.cpu.ime then
    match s.firstPending with
    | some l => enterInterrupt l s
    | none => s
  else s

/-- Steps 4c to 8, after the instruction has run (60_exceptions R401). -/
def finishStep (pc0 : Word) (s : State) : State := service (commit pc0 (wake (mergeReq (applyEnable s))))

/-- Place a byte where the next read of an address finds it: in the store or the image the address reaches, or as the next answer
where the read is a draw. An address that cannot hold the byte is left alone (log entry 22). -/
def placeByte (addr : Word) (v : Byte) (s : State) : State :=
  match peek addr s with
  | none => { s with ports := { s.ports with bytes := v :: s.ports.bytes } }
  | some _ =>
    match route s.bus.bootActive addr with
    | .boot =>
      { s with params := { s.params with boot := s.params.boot.map fun m => m.set Image.rest addr.toNat v } }
    | .cartRom =>
      { s with params := { s.params with rom := s.params.rom.set Image.rest (romOffset s.params s.cart.mbc addr) v } }
    | _ => memWrite addr v s

/-- Place bytes at rising addresses. -/
def placeBytes : List Byte → Word → State → State
  | [], _, s => s
  | v :: rest, addr, s => placeByte addr v (placeBytes rest (addr + 1#16) s)

end Sys2Proof.Machine
end

