-- ==== Sys2Proof/Machine/Step.lean ====
section
/-!
DEFINITION. One step of the block (60_exceptions R401).
-/

namespace Sys2Proof.Machine

/-- `Step` (60_exceptions R401): the inputs arrive, an instruction is fetched and runs, and the engine's stages follow. -/
def step (s : State) : Host.Outcome State Fault Refusal :=
  match nextInstr (takeInput s) with
  | .error f => .fault f
  | .ok (i, t) =>
    match exec i (moveDelay t) with
    | .next u => .next (finishStep s.cpu.pc u)
    | .fault f => .fault f
    | .refused r => .refused r

/-- The state with an instruction of `nbits` bits `w` where the next step fetches: bits 7:0 are the byte at PC. The engine runs,
since a halted engine fetches nothing (log entry 1). -/
def State.withFetchWord (s : State) (nbits w : Nat) : State :=
  let v := w % 2 ^ nbits
  let b0 := BitVec.ofNat 8 v
  let tail := [BitVec.ofNat 8 (v / 256), BitVec.ofNat 8 (v / 65536)].take (bytesAfter b0)
  (placeBytes (b0 :: tail) s.cpu.pc s).setHalted false

end Sys2Proof.Machine
end

