-- ==== Sys2Proof/Machine/Session.lean ====
section
/-!
DEFINITION. The life of a session outside its steps: construction (70_reset R441; 20_memory R120 to R122), the save game
(20_memory R127), what the host may do (60_exceptions R430), and the run of a launch (R431, R432).
-/

namespace Sys2Proof.Machine

/-- Why a construction fails (20_memory R120 to R122; 60_exceptions R415). -/
inductive ConstructionFailure where
  | unknownType (t : Byte)
  | unknownRamSize (s : Byte)
  | romTooShort (len : Nat)
  deriving DecidableEq, Repr

/-- The five variants of the cartridge (20_memory R120). -/
inductive Variant where
  | romOnly | mbc1 | mbc2 | mbc3 | mbc5
  deriving DecidableEq, Repr

/-- What a cartridge-type byte says (20_memory R120). -/
structure CartType where
  variant : Variant
  battery : Bool
  hasRtc  : Bool
  deriving DecidableEq, Repr

/-- The table of cartridge types (20_memory R120). Its RAM column is a label; the RAM-size byte alone sizes the RAM. -/
def cartType (t : Byte) : Option CartType :=
  match t.toNat with
  | 0x00 => some ⟨.romOnly, false, false⟩
  | 0x08 => some ⟨.romOnly, false, false⟩
  | 0x09 => some ⟨.romOnly, true, false⟩
  | 0x01 => some ⟨.mbc1, false, false⟩
  | 0x02 => some ⟨.mbc1, false, false⟩
  | 0x03 => some ⟨.mbc1, true, false⟩
  | 0x05 => some ⟨.mbc2, false, false⟩
  | 0x06 => some ⟨.mbc2, true, false⟩
  | 0x0F => some ⟨.mbc3, true, true⟩
  | 0x10 => some ⟨.mbc3, true, true⟩
  | 0x11 => some ⟨.mbc3, false, false⟩
  | 0x12 => some ⟨.mbc3, false, false⟩
  | 0x13 => some ⟨.mbc3, true, false⟩
  | 0x19 => some ⟨.mbc5, false, false⟩
  | 0x1A => some ⟨.mbc5, false, false⟩
  | 0x1B => some ⟨.mbc5, true, false⟩
  | 0x1C => some ⟨.mbc5, false, false⟩
  | 0x1D => some ⟨.mbc5, false, false⟩
  | 0x1E => some ⟨.mbc5, true, false⟩
  | _ => none

/-- The number of entries of MBC2's built-in RAM (20_memory R137). -/
def mbc2Entries : Nat := 512

/-- The table of RAM sizes (20_memory R121). -/
def ramSize (s : Byte) : Option Nat :=
  match s.toNat with
  | 0x00 => some 0
  | 0x01 => some 2048
  | 0x02 => some 8192
  | 0x03 => some 32768
  | 0x04 => some 131072
  | 0x05 => some 65536
  | _ => none

/-- What `P_POST_BOOT` may replace, and what is a draw with a boot image: the registers, PC and IF that a session starts with
(10_state R70). That `P_POST_BOOT` covers PC and IF, and no other row of that table, is the model's (DESIGN CHOICE, log entry 28). -/
structure Start where
  a     : Byte
  b     : Byte
  c     : Byte
  d     : Byte
  e     : Byte
  h     : Byte
  l     : Byte
  flags : Flags
  sp    : Word
  pc    : Word
  iflag : BitVec 5
  deriving DecidableEq, Repr

/-- `P_POST_BOOT` at its default (10_state R70). -/
def Start.postBoot : Start where
  a := 0x01#8
  b := 0x00#8
  c := 0x13#8
  d := 0x00#8
  e := 0xD8#8
  h := 0x01#8
  l := 0x4D#8
  flags := byteToFlags 0xB0#8
  sp := 0xFFFE#16
  pc := 0x0100#16
  iflag := 0b00001#5

/-- What a session is constructed from: the named parameters (00_scope R12), the collaborator, and the draws that construction
takes (10_state R70; log entry 13). -/
structure Launch where
  rom          : List Byte
  boot         : Option (List Byte)
  collaborator : Bool
  /-- `P_SAVE`: what the collaborator's `load()` returns. -/
  save         : Option (List Byte)
  ramSentinel  : Byte
  eiDelay      : Bool
  rtcModel     : RtcModel
  decodeOmits  : List (Bool × Byte)
  cycles       : List CostRow
  /-- `P_POST_BOOT`: the start without a boot image (log entry 28). -/
  postBoot     : Start
  /-- The draws for the registers and IF of a session with a boot image; its PC is not read. -/
  drawn        : Start
  /-- The draws for the clock registers. -/
  drawnRtc     : Rtc
  deriving DecidableEq, Repr

/-- The cells of an image, from an offset on: its bytes other than 0x00 (log entry 3). -/
def imageOf : Nat → List Byte → Memory
  | _, [] => []
  | k, v :: rest => if some v = Image.rest then imageOf (k + 1) rest else (k, v) :: imageOf (k + 1) rest

/-- The cells of a filled RAM, from an offset on. -/
def ramOf : Nat → List Byte → Memory
  | _, [] => []
  | k, v :: rest => (k, v) :: ramOf (k + 1) rest

/-- The controller of a variant at reset (10_state R70). -/
def Mbc.reset (v : Variant) (rtc : Rtc) : Mbc :=
  match v with
  | .romOnly => .romOnly
  | .mbc1 => .mbc1 ⟨false, 0#5, 0#2, 0#1⟩
  | .mbc2 => .mbc2 ⟨false, 1#4⟩
  | .mbc3 => .mbc3 ⟨false, 1#7, 0#2, false, 0#3, rtc⟩
  | .mbc5 => .mbc5 ⟨false, 0x01#8, 0#1, 0#4⟩

/-- A byte of the RAM as the buffer holds it: MBC2's entries have four bits (10_state R63; log entry 16). -/
def Mbc.ramEntry (mbc : Mbc) (v : Byte) : Byte :=
  match mbc with
  | .mbc2 _ => v &&& 0x0F#8
  | .romOnly => v
  | .mbc1 _ => v
  | .mbc3 _ => v
  | .mbc5 _ => v

/-- The save-game operations act: the variant has battery-backed RAM, which is a battery and a RAM buffer, and a collaborator is
attached (20_memory R126, R127; log entry 24). -/
def Params.persists (p : Params) : Bool := p.battery && decide (p.ramLen ≠ 0) && p.collaborator

/-- `load_savegame()` with what `load()` returns (20_memory R127). -/
def loadSavegame (p : Params) (save : Option (List Byte)) (c : Cart) : Cart :=
  match save with
  | some bytes =>
    if p.persists && decide (bytes.length = p.ramLen) then { c with ram := ramOf 0 (bytes.map c.mbc.ramEntry) } else c
  | none => c

/-- `dump_savegame()`: the buffer that goes to the collaborator, or `none` where the call does nothing (20_memory R127). -/
def dumpSavegame (p : Params) (c : Cart) : Option (List Byte) :=
  if p.persists then some ((List.range p.ramLen).map fun k => c.mbc.ramEntry (ramByte .cartRam c.ram k)) else none

/-- The CPU at the start of a session (70_reset R441, step 6). -/
def Start.cpu (t : Start) (pc : Word) : Cpu where
  a := t.a
  b := t.b
  c := t.c
  d := t.d
  e := t.e
  h := t.h
  l := t.l
  flags := t.flags
  sp := t.sp
  pc := pc
  halted := false
  ime := false
  eiPending := false
  enableAfter := false

/-- The cartridge type, the RAM size in bytes, or the failure, in the factory's order (70_reset R441, steps 1 and 2;
log entry 20). -/
def readHeader (rom : List Byte) : Except ConstructionFailure (CartType × Nat) :=
  if rom.length < 0x150 then .error (.romTooShort rom.length)
  else
    match cartType (rom.getD 0x147 0#8) with
    | none => .error (.unknownType (rom.getD 0x147 0#8))
    | some t =>
      if t.variant = .mbc2 then .ok (t, mbc2Entries)
      else
        match ramSize (rom.getD 0x149 0#8) with
        | none => .error (.unknownRamSize (rom.getD 0x149 0#8))
        | some n => .ok (t, n)

/-- The configuration of a session (10_state R67). -/
def Launch.params (x : Launch) (t : CartType) (ramLen : Nat) : Params where
  rom := imageOf 0 x.rom
  romLen := x.rom.length
  boot := x.boot.map (imageOf 0)
  ramLen := ramLen
  battery := t.battery
  hasRtc := t.hasRtc
  collaborator := x.collaborator
  ramSentinel := x.ramSentinel
  eiDelay := x.eiDelay
  rtcModel := x.rtcModel
  decodeOmits := x.decodeOmits
  cycles := x.cycles

/-- Construction of a session: the block at reset, or why it fails (70_reset R441; 10_state R70). Without a boot image the registers, SP,
PC and IF are those of `P_POST_BOOT`, and every other field is as the table has it (70_reset R443; DESIGN CHOICE, log entry 28). -/
def construct (x : Launch) : Except ConstructionFailure State :=
  match readHeader x.rom with
  | .error f => .error f
  | .ok (t, ramLen) =>
    let p := x.params t ramLen
    let start := if x.boot.isSome then { x.drawn with pc := 0x0000#16 } else x.postBoot
    .ok
      { cpu := start.cpu start.pc
        bus :=
          { wram := [], hram := [], ie := 0x00#8, iflag := start.iflag, bootActive := x.boot.isSome, p1Select := 0b11#2 }
        cart := loadSavegame p x.save ⟨[], Mbc.reset t.variant x.drawnRtc⟩
        params := p
        ports := Ports.reset }

/-- The block after a step that failed: its own state is unchanged (60_exceptions R406, R407), and the step's inputs and the answers
to its reads of the opcode are spent (10_state R41; log entry 19). -/
def attempted (s : State) : State := { s with ports := (readOpcode s.cpu.pc (takeInput s)).2.ports }

/-- The host skips a failing instruction: of the block only the PC changes (60_exceptions R430). `none` where the outcome is not one
the host may skip. -/
def hostSkip (o : Out) (s : State) : Option State :=
  match o with
  | .fault (.decodeFailure _ pfx pc) => some ((attempted s).setPc (pc + (if pfx then 2#16 else 1#16)))
  | .refused (.unmodelled _ pc) => some ((attempted s).setPc (pc + 2#16))
  | _ => none

/-- What the host does on Quit (60_exceptions R430). -/
inductive HostCall where
  | dumpSavegame (image : Option (List Byte))
  | stopSinks
  | terminate
  deriving DecidableEq, Repr

/-- The host's calls on Quit, in order (60_exceptions R430). -/
def quitCalls (s : State) : List HostCall := [.dumpSavegame (dumpSavegame s.params s.cart), .stopSinks, .terminate]

/-- The run of a launch with the exit address `e` has ended at this step boundary (60_exceptions R431). -/
def atExit (e : Word) (s : State) : Bool := decide (s.cpu.pc = e) && !s.cpu.halted

/-- The two bytes that a launch places at its exit address: `JR -2` (60_exceptions R431). -/
def exitPlaced (e : Word) (s : State) : Bool :=
  decide (peek e s = some 0x18#8) && decide (peek (e + 1#16) s = some 0xFE#8)

/-- How the run of a launch stands (60_exceptions R431, R432). -/
inductive Run where
  /-- It has not ended. -/
  | going (s : State)
  /-- It has ended, in this state. -/
  | ended (s : State)
  /-- A step gave a DecodeFailure for an encoding that the full table does not map. -/
  | faulted (f : Fault)
  /-- It reached STOP, or a form that its `P_DECODE_SET` leaves out: the launch is refused. -/
  | refused (r : Refusal)
  deriving DecidableEq, Repr

/-- What a step's failure makes of the run: a pair that the full table maps is one that `P_DECODE_SET` leaves out, and the launch is
refused; any other is a fault (60_exceptions R432). -/
def Run.ofFault (f : Fault) : Run :=
  match f with
  | .decodeFailure op pfx pc => if (decodeValue pfx op).isSome then .refused (.leftOut op pfx pc) else .faulted f

/-- The run from a step boundary, for at most so many steps, with the exit address `e` (60_exceptions R431). -/
def runFrom : Nat → Word → State → Run
  | 0, e, s => if atExit e s then .ended s else .going s
  | k + 1, e, s =>
    if atExit e s then .ended s
    else
      match step s with
      | .next t => runFrom k e t
      | .fault f => Run.ofFault f
      | .refused r => .refused r

/-- The run of a launch with the exit address `e`, from its construction (60_exceptions R431; 70_reset R441). -/
def runLaunch (k : Nat) (e : Word) (x : Launch) : Except ConstructionFailure Run := (construct x).map (runFrom k e)

end Sys2Proof.Machine
end

