-- ==== Sys2Proof/Safety.lean ====
section
/-!
DEFINITION. The terms that claims about the machine use: what a legal state is, the premises of a launch, and what each instruction may
change, by the tables of the spec. No instruction's meaning calls anything here.
-/

namespace Sys2Proof.Machine

/-! ### Legal states -/

/-- The controller is in a state that the spec's machines can be in: MBC2 has its 512 entries of four bits (10_state R63), and MBC3
selects one of the five clock registers (20_memory R139). -/
def Mbc.legal (mbc : Mbc) (ramLen : Nat) (ram : Memory) : Bool :=
  match mbc with
  | .mbc2 _ => decide (ramLen = mbc2Entries) && ram.all fun c => decide (c.2.toNat < 16)
  | .mbc3 m => decide (m.rtcSel.toNat < 5)
  | .romOnly => true
  | .mbc1 _ => true
  | .mbc5 _ => true

/-- The configuration is one that construction can give: the ROM holds a header (20_memory R122) and the images are canonical. -/
def Params.legal (p : Params) : Bool :=
  decide (0x150 ≤ p.romLen) && p.rom.wf Image.rest && (p.boot.getD []).wf Image.rest

/-- The stores are legal: every RAM is canonical and inside its size (10_state R56, R61), the controller is legal, and the overlay is
on only where there is a boot image (20_memory R87). -/
def State.legal (s : State) : Bool :=
  s.params.legal && s.bus.wram.within 0x2000 && s.bus.hram.within 127 && s.cart.ram.within s.params.ramLen &&
    s.cart.mbc.legal s.params.ramLen s.cart.ram && (!s.bus.bootActive || s.params.boot.isSome)

/-- The invariant of the block between steps: the stores are legal and no enable hangs over (60_exceptions R401). -/
def State.inv (s : State) : Bool := s.legal && !s.cpu.enableAfter

/-! ### Launch premises -/

/-- The launch premise `AtReset` (70_reset R445): the state is one that construction gives. -/
def AtReset (x : Launch) (s : State) : Prop := construct x = .ok s

/-- A field that a claim about a fragment fixes, with its value (70_reset R445): the fields of 10_state R41 to R67, a byte of memory, and
the scripts of the ports (DESIGN CHOICE, log entry 29). The PC is the argument of `AtEntry` itself. -/
inductive Fixed where
  | reg (r : Reg) (v : Byte)
  | flags (f : Flags)
  | sp (v : Word)
  | halted (v : Bool)
  | ime (v : Bool)
  | eiPending (v : Bool)
  | ie (v : Byte)
  | iflag (v : BitVec 5)
  | bootActive (v : Bool)
  | p1Select (v : BitVec 2)
  /-- The bank controller, with its variant. -/
  | mbc (m : Mbc)
  /-- A cell of the cartridge's RAM, in the bank window or not. -/
  | cartRam (offset : Nat) (v : Byte)
  /-- What construction fixed, the ROM and the boot image among it. -/
  | params (p : Params)
  /-- The byte the block itself gives for a read of an address, whatever the buttons of the step are. -/
  | byte (addr : Word) (v : Byte)
  /-- The inputs of the coming steps (60_exceptions R404). -/
  | inputs (script : List StepInput)
  /-- The answers to the coming draws of a byte (20_memory R85). -/
  | answers (script : List Byte)
  deriving DecidableEq, Repr

/-- The state has the field at the value. -/
def Fixed.holds (x : Fixed) (s : State) : Prop :=
  match x with
  | .reg r v => s.cpu.get r = v
  | .flags f => s.cpu.flags = f
  | .sp v => s.cpu.sp = v
  | .halted v => s.cpu.halted = v
  | .ime v => s.cpu.ime = v
  | .eiPending v => s.cpu.eiPending = v
  | .ie v => s.bus.ie = v
  | .iflag v => s.bus.iflag = v
  | .bootActive v => s.bus.bootActive = v
  | .p1Select v => s.bus.p1Select = v
  | .mbc m => s.cart.mbc = m
  | .cartRam offset v => ramByte .cartRam s.cart.ram offset = v
  | .params p => s.params = p
  | .byte addr v => ∀ i : StepInput, peek addr { s with ports := { s.ports with input := i } } = some v
  | .inputs script => s.ports.inputs = script
  | .answers script => s.ports.bytes = script

/-- The bytes of a fragment, fixed from an address on; an address past 0xFFFF wraps (20_memory R95). -/
def codeAt : Word → List Byte → List Fixed
  | _, [] => []
  | addr, v :: rest => .byte addr v :: codeAt (addr + 1#16) rest

/-- The launch premise `AtEntry(pc, ...)` of a claim about a fragment launched mid-session (70_reset R445): a state between steps with
the PC at the entry and the listed fields at their values. Every other field is any the invariant allows (log entry 29). -/
def AtEntry (pc : Word) (fixed : List Fixed) (s : State) : Prop :=
  s.inv = true ∧ s.cpu.pc = pc ∧ ∀ x ∈ fixed, x.holds s

/-! ### What an instruction may change -/

/-- The registers of a pair. -/
def Pair.regs (p : Pair) : List Reg := [Pair.hi p, Pair.lo p]

/-- The register that an operand names. -/
def regsOfR8 (r : R8) : List Reg :=
  match r with
  | .reg r => [r]
  | .ind => []

/-- The registers that an operand names. -/
def regsOfR16 (rr : R16) : List Reg :=
  match rr with
  | .pair p => Pair.regs p
  | .sp => []

/-- The registers that an operand names. -/
def regsOfStk (qq : StkPair) : List Reg :=
  match qq with
  | .pair p => Pair.regs p
  | .af => [.a]

/-- The address that writing an operand stores to. -/
def storedByR8 (r : R8) (s : State) : List Word :=
  match r with
  | .reg _ => []
  | .ind => [s.hl]

/-- The two addresses that a push stores to (20_memory R91). -/
def stackSlots (s : State) : List Word := [s.cpu.sp - 1#16, s.cpu.sp - 2#16]

/-- The word that a pop takes: the bytes at SP and SP + 1, the low byte read first (20_memory R91). -/
def stackTop (s : State) : Word :=
  let lo := memRead s.cpu.sp s
  let hi := memRead (s.cpu.sp + 1#16) lo.2
  wordOf hi.1 lo.1

/-- What an instruction does to one flag, in the notation of the spec's tables: `-`, `0`, `1` and `*`. -/
inductive FlagRule where
  | kept | zero | one | computed
  deriving DecidableEq, Repr

/-- A flag before and after an instruction agrees with its rule. A computed flag is the business of the instruction's own
statement. -/
def FlagRule.holds (r : FlagRule) (before after : Bool) : Prop :=
  match r with
  | .kept => after = before
  | .zero => after = false
  | .one => after = true
  | .computed => True

/-- The rules of the four flags. -/
structure FlagEffect where
  z : FlagRule
  n : FlagRule
  h : FlagRule
  c : FlagRule
  deriving DecidableEq, Repr

/-- One rule for all four flags. -/
def FlagEffect.all (r : FlagRule) : FlagEffect := ⟨r, r, r, r⟩

/-- The flags before and after an instruction agree with the effect. -/
def FlagEffect.holds (e : FlagEffect) (before after : Flags) : Prop :=
  e.z.holds before.z after.z ∧ e.n.holds before.n after.n ∧ e.h.holds before.h after.h ∧ e.c.holds before.c after.c

/-- The flags column of the spec's tables (40_load8 to 46_system), row by row. -/
def flagEffect : Instr → FlagEffect
  | .ldRR _ _ => .all .kept
  | .ldRN _ _ => .all .kept
  | .ldRHl _ => .all .kept
  | .ldHlR _ => .all .kept
  | .ldHlN _ => .all .kept
  | .ldABc => .all .kept
  | .ldADe => .all .kept
  | .ldBcA => .all .kept
  | .ldDeA => .all .kept
  | .ldANn _ => .all .kept
  | .ldNnA _ => .all .kept
  | .ldhAN _ => .all .kept
  | .ldhNA _ => .all .kept
  | .ldhAC => .all .kept
  | .ldhCA => .all .kept
  | .ldHliA => .all .kept
  | .ldAHli => .all .kept
  | .ldHldA => .all .kept
  | .ldAHld => .all .kept
  | .ldRrNn _ _ => .all .kept
  | .ldNnSp _ => .all .kept
  | .ldSpHl => .all .kept
  | .ldHlSpE _ => ⟨.zero, .zero, .computed, .computed⟩
  | .pushRr _ => .all .kept
  | .pushAf => .all .kept
  | .popAf => .all .computed
  | .popRr qq => if qq = .af then .all .computed else .all .kept
  | .addAR _ => ⟨.computed, .zero, .computed, .computed⟩
  | .addAHl => ⟨.computed, .zero, .computed, .computed⟩
  | .addAN _ => ⟨.computed, .zero, .computed, .computed⟩
  | .adcAR _ => ⟨.computed, .zero, .computed, .computed⟩
  | .adcAHl => ⟨.computed, .zero, .computed, .computed⟩
  | .adcAN _ => ⟨.computed, .zero, .computed, .computed⟩
  | .subR _ => ⟨.computed, .one, .computed, .computed⟩
  | .subHl => ⟨.computed, .one, .computed, .computed⟩
  | .subN _ => ⟨.computed, .one, .computed, .computed⟩
  | .sbcAR _ => ⟨.computed, .one, .computed, .computed⟩
  | .sbcAHl => ⟨.computed, .one, .computed, .computed⟩
  | .sbcAN _ => ⟨.computed, .one, .computed, .computed⟩
  | .andR _ => ⟨.computed, .zero, .one, .zero⟩
  | .andHl => ⟨.computed, .zero, .one, .zero⟩
  | .andN _ => ⟨.computed, .zero, .one, .zero⟩
  | .xorR _ => ⟨.computed, .zero, .zero, .zero⟩
  | .xorHl => ⟨.computed, .zero, .zero, .zero⟩
  | .xorN _ => ⟨.computed, .zero, .zero, .zero⟩
  | .orR _ => ⟨.computed, .zero, .zero, .zero⟩
  | .orHl => ⟨.computed, .zero, .zero, .zero⟩
  | .orN _ => ⟨.computed, .zero, .zero, .zero⟩
  | .cpR _ => ⟨.computed, .one, .computed, .computed⟩
  | .cpHl => ⟨.computed, .one, .computed, .computed⟩
  | .cpN _ => ⟨.computed, .one, .computed, .computed⟩
  | .incR _ => ⟨.computed, .zero, .computed, .kept⟩
  | .incHl => ⟨.computed, .zero, .computed, .kept⟩
  | .decR _ => ⟨.computed, .one, .computed, .kept⟩
  | .decHl => ⟨.computed, .one, .computed, .kept⟩
  | .daa => ⟨.computed, .kept, .zero, .computed⟩
  | .cpl => ⟨.kept, .one, .one, .kept⟩
  | .scf => ⟨.kept, .zero, .zero, .one⟩
  | .ccf => ⟨.kept, .zero, .zero, .computed⟩
  | .addHlRr _ => ⟨.kept, .zero, .computed, .computed⟩
  | .incRr _ => .all .kept
  | .decRr _ => .all .kept
  | .addSpE _ => ⟨.zero, .zero, .computed, .computed⟩
  | .rlca => ⟨.zero, .zero, .zero, .computed⟩
  | .rrca => ⟨.zero, .zero, .zero, .computed⟩
  | .rla => ⟨.zero, .zero, .zero, .computed⟩
  | .rra => ⟨.zero, .zero, .zero, .computed⟩
  | .rlcR _ => ⟨.computed, .zero, .zero, .computed⟩
  | .rlcHl => ⟨.computed, .zero, .zero, .computed⟩
  | .rrcR _ => ⟨.computed, .zero, .zero, .computed⟩
  | .rrcHl => ⟨.computed, .zero, .zero, .computed⟩
  | .rlR _ => ⟨.computed, .zero, .zero, .computed⟩
  | .rlHl => ⟨.computed, .zero, .zero, .computed⟩
  | .rrR _ => ⟨.computed, .zero, .zero, .computed⟩
  | .rrHl => ⟨.computed, .zero, .zero, .computed⟩
  | .slaR _ => ⟨.computed, .zero, .zero, .computed⟩
  | .slaHl => ⟨.computed, .zero, .zero, .computed⟩
  | .sraR _ => ⟨.computed, .zero, .zero, .computed⟩
  | .sraHl => ⟨.computed, .zero, .zero, .computed⟩
  | .swapR _ => ⟨.computed, .zero, .zero, .computed⟩
  | .swapHl => ⟨.computed, .zero, .zero, .computed⟩
  | .srlR _ => ⟨.computed, .zero, .zero, .computed⟩
  | .srlHl => ⟨.computed, .zero, .zero, .computed⟩
  | .bitBR _ _ => ⟨.computed, .zero, .one, .kept⟩
  | .bitBHl _ => ⟨.computed, .zero, .one, .kept⟩
  | .resBR _ _ => .all .kept
  | .resBHl _ => .all .kept
  | .setBR _ _ => .all .kept
  | .setBHl _ => .all .kept
  | .jpNn _ => .all .kept
  | .jpCcNn _ _ => .all .kept
  | .jpHl => .all .kept
  | .jrE _ => .all .kept
  | .jrCcE _ _ => .all .kept
  | .callNn _ => .all .kept
  | .callCcNn _ _ => .all .kept
  | .ret => .all .kept
  | .retCc _ => .all .kept
  | .reti => .all .kept
  | .rst _ => .all .kept
  | .nop => .all .kept
  | .halt => .all .kept
  | .stop _ => .all .kept
  | .di => .all .kept
  | .ei => .all .kept

/-- The general registers that an instruction writes (40_load8 to 46_system). -/
def dests : Instr → List Reg
  | .ldRR d _ => regsOfR8 d
  | .ldRN d _ => regsOfR8 d
  | .ldRHl d => regsOfR8 d
  | .ldHlR _ => []
  | .ldHlN _ => []
  | .ldABc => [.a]
  | .ldADe => [.a]
  | .ldBcA => []
  | .ldDeA => []
  | .ldANn _ => [.a]
  | .ldNnA _ => []
  | .ldhAN _ => [.a]
  | .ldhNA _ => []
  | .ldhAC => [.a]
  | .ldhCA => []
  | .ldHliA => [.h, .l]
  | .ldAHli => [.a, .h, .l]
  | .ldHldA => [.h, .l]
  | .ldAHld => [.a, .h, .l]
  | .ldRrNn rr _ => regsOfR16 rr
  | .ldNnSp _ => []
  | .ldSpHl => []
  | .ldHlSpE _ => [.h, .l]
  | .pushRr _ => []
  | .pushAf => []
  | .popAf => [.a]
  | .popRr qq => regsOfStk qq
  | .addAR _ => [.a]
  | .addAHl => [.a]
  | .addAN _ => [.a]
  | .adcAR _ => [.a]
  | .adcAHl => [.a]
  | .adcAN _ => [.a]
  | .subR _ => [.a]
  | .subHl => [.a]
  | .subN _ => [.a]
  | .sbcAR _ => [.a]
  | .sbcAHl => [.a]
  | .sbcAN _ => [.a]
  | .andR _ => [.a]
  | .andHl => [.a]
  | .andN _ => [.a]
  | .xorR _ => [.a]
  | .xorHl => [.a]
  | .xorN _ => [.a]
  | .orR _ => [.a]
  | .orHl => [.a]
  | .orN _ => [.a]
  | .cpR _ => []
  | .cpHl => []
  | .cpN _ => []
  | .incR d => regsOfR8 d
  | .incHl => []
  | .decR d => regsOfR8 d
  | .decHl => []
  | .daa => [.a]
  | .cpl => [.a]
  | .scf => []
  | .ccf => []
  | .addHlRr _ => [.h, .l]
  | .incRr rr => regsOfR16 rr
  | .decRr rr => regsOfR16 rr
  | .addSpE _ => []
  | .rlca => [.a]
  | .rrca => [.a]
  | .rla => [.a]
  | .rra => [.a]
  | .rlcR r => regsOfR8 r
  | .rlcHl => []
  | .rrcR r => regsOfR8 r
  | .rrcHl => []
  | .rlR r => regsOfR8 r
  | .rlHl => []
  | .rrR r => regsOfR8 r
  | .rrHl => []
  | .slaR r => regsOfR8 r
  | .slaHl => []
  | .sraR r => regsOfR8 r
  | .sraHl => []
  | .swapR r => regsOfR8 r
  | .swapHl => []
  | .srlR r => regsOfR8 r
  | .srlHl => []
  | .bitBR _ _ => []
  | .bitBHl _ => []
  | .resBR _ r => regsOfR8 r
  | .resBHl _ => []
  | .setBR _ r => regsOfR8 r
  | .setBHl _ => []
  | .jpNn _ => []
  | .jpCcNn _ _ => []
  | .jpHl => []
  | .jrE _ => []
  | .jrCcE _ _ => []
  | .callNn _ => []
  | .callCcNn _ _ => []
  | .ret => []
  | .retCc _ => []
  | .reti => []
  | .rst _ => []
  | .nop => []
  | .halt => []
  | .stop _ => []
  | .di => []
  | .ei => []

/-- Whether an instruction writes SP, given the flags (41_load16, 43_alu16, 45_control). -/
def writesSp (i : Instr) (f : Flags) : Bool :=
  match i with
  | .ldRR _ _ => false
  | .ldRN _ _ => false
  | .ldRHl _ => false
  | .ldHlR _ => false
  | .ldHlN _ => false
  | .ldABc => false
  | .ldADe => false
  | .ldBcA => false
  | .ldDeA => false
  | .ldANn _ => false
  | .ldNnA _ => false
  | .ldhAN _ => false
  | .ldhNA _ => false
  | .ldhAC => false
  | .ldhCA => false
  | .ldHliA => false
  | .ldAHli => false
  | .ldHldA => false
  | .ldAHld => false
  | .ldRrNn rr _ => decide (rr = .sp)
  | .ldNnSp _ => false
  | .ldSpHl => true
  | .ldHlSpE _ => false
  | .pushRr _ => true
  | .pushAf => true
  | .popAf => true
  | .popRr _ => true
  | .addAR _ => false
  | .addAHl => false
  | .addAN _ => false
  | .adcAR _ => false
  | .adcAHl => false
  | .adcAN _ => false
  | .subR _ => false
  | .subHl => false
  | .subN _ => false
  | .sbcAR _ => false
  | .sbcAHl => false
  | .sbcAN _ => false
  | .andR _ => false
  | .andHl => false
  | .andN _ => false
  | .xorR _ => false
  | .xorHl => false
  | .xorN _ => false
  | .orR _ => false
  | .orHl => false
  | .orN _ => false
  | .cpR _ => false
  | .cpHl => false
  | .cpN _ => false
  | .incR _ => false
  | .incHl => false
  | .decR _ => false
  | .decHl => false
  | .daa => false
  | .cpl => false
  | .scf => false
  | .ccf => false
  | .addHlRr _ => false
  | .incRr rr => decide (rr = .sp)
  | .decRr rr => decide (rr = .sp)
  | .addSpE _ => true
  | .rlca => false
  | .rrca => false
  | .rla => false
  | .rra => false
  | .rlcR _ => false
  | .rlcHl => false
  | .rrcR _ => false
  | .rrcHl => false
  | .rlR _ => false
  | .rlHl => false
  | .rrR _ => false
  | .rrHl => false
  | .slaR _ => false
  | .slaHl => false
  | .sraR _ => false
  | .sraHl => false
  | .swapR _ => false
  | .swapHl => false
  | .srlR _ => false
  | .srlHl => false
  | .bitBR _ _ => false
  | .bitBHl _ => false
  | .resBR _ _ => false
  | .resBHl _ => false
  | .setBR _ _ => false
  | .setBHl _ => false
  | .jpNn _ => false
  | .jpCcNn _ _ => false
  | .jpHl => false
  | .jrE _ => false
  | .jrCcE _ _ => false
  | .callNn _ => true
  | .callCcNn cc _ => condition cc f
  | .ret => true
  | .retCc cc => condition cc f
  | .reti => true
  | .rst _ => true
  | .nop => false
  | .halt => false
  | .stop _ => false
  | .di => false
  | .ei => false

/-- The addresses that an instruction stores to, in order, computed in the state it runs in (40_load8 to 46_system). -/
def storesAt (i : Instr) (s : State) : List Word :=
  match i with
  | .ldRR d _ => storedByR8 d s
  | .ldRN d _ => storedByR8 d s
  | .ldRHl d => storedByR8 d s
  | .ldHlR _ => [s.hl]
  | .ldHlN _ => [s.hl]
  | .ldABc => []
  | .ldADe => []
  | .ldBcA => [s.cpu.pair .bc]
  | .ldDeA => [s.cpu.pair .de]
  | .ldANn _ => []
  | .ldNnA nn => [nn]
  | .ldhAN _ => []
  | .ldhNA n => [highPage n]
  | .ldhAC => []
  | .ldhCA => [highPage s.cpu.c]
  | .ldHliA => [s.hl]
  | .ldAHli => []
  | .ldHldA => [s.hl]
  | .ldAHld => []
  | .ldRrNn _ _ => []
  | .ldNnSp nn => [nn, nn + 1#16]
  | .ldSpHl => []
  | .ldHlSpE _ => []
  | .pushRr _ => stackSlots s
  | .pushAf => stackSlots s
  | .popAf => []
  | .popRr _ => []
  | .addAR _ => []
  | .addAHl => []
  | .addAN _ => []
  | .adcAR _ => []
  | .adcAHl => []
  | .adcAN _ => []
  | .subR _ => []
  | .subHl => []
  | .subN _ => []
  | .sbcAR _ => []
  | .sbcAHl => []
  | .sbcAN _ => []
  | .andR _ => []
  | .andHl => []
  | .andN _ => []
  | .xorR _ => []
  | .xorHl => []
  | .xorN _ => []
  | .orR _ => []
  | .orHl => []
  | .orN _ => []
  | .cpR _ => []
  | .cpHl => []
  | .cpN _ => []
  | .incR d => storedByR8 d s
  | .incHl => [s.hl]
  | .decR d => storedByR8 d s
  | .decHl => [s.hl]
  | .daa => []
  | .cpl => []
  | .scf => []
  | .ccf => []
  | .addHlRr _ => []
  | .incRr _ => []
  | .decRr _ => []
  | .addSpE _ => []
  | .rlca => []
  | .rrca => []
  | .rla => []
  | .rra => []
  | .rlcR r => storedByR8 r s
  | .rlcHl => [s.hl]
  | .rrcR r => storedByR8 r s
  | .rrcHl => [s.hl]
  | .rlR r => storedByR8 r s
  | .rlHl => [s.hl]
  | .rrR r => storedByR8 r s
  | .rrHl => [s.hl]
  | .slaR r => storedByR8 r s
  | .slaHl => [s.hl]
  | .sraR r => storedByR8 r s
  | .sraHl => [s.hl]
  | .swapR r => storedByR8 r s
  | .swapHl => [s.hl]
  | .srlR r => storedByR8 r s
  | .srlHl => [s.hl]
  | .bitBR _ _ => []
  | .bitBHl _ => []
  | .resBR _ r => storedByR8 r s
  | .resBHl _ => [s.hl]
  | .setBR _ r => storedByR8 r s
  | .setBHl _ => [s.hl]
  | .jpNn _ => []
  | .jpCcNn _ _ => []
  | .jpHl => []
  | .jrE _ => []
  | .jrCcE _ _ => []
  | .callNn _ => stackSlots s
  | .callCcNn cc _ => if condition cc s.cpu.flags then stackSlots s else []
  | .ret => []
  | .retCc _ => []
  | .reti => []
  | .rst _ => stackSlots s
  | .nop => []
  | .halt => []
  | .stop _ => []
  | .di => []
  | .ei => []

/-- Whether an instruction takes its transfer, given the flags: the condition of a conditional one, and else always (45_control). -/
def taken (i : Instr) (f : Flags) : Bool :=
  match i with
  | .ldRR _ _ => true
  | .ldRN _ _ => true
  | .ldRHl _ => true
  | .ldHlR _ => true
  | .ldHlN _ => true
  | .ldABc => true
  | .ldADe => true
  | .ldBcA => true
  | .ldDeA => true
  | .ldANn _ => true
  | .ldNnA _ => true
  | .ldhAN _ => true
  | .ldhNA _ => true
  | .ldhAC => true
  | .ldhCA => true
  | .ldHliA => true
  | .ldAHli => true
  | .ldHldA => true
  | .ldAHld => true
  | .ldRrNn _ _ => true
  | .ldNnSp _ => true
  | .ldSpHl => true
  | .ldHlSpE _ => true
  | .pushRr _ => true
  | .pushAf => true
  | .popAf => true
  | .popRr _ => true
  | .addAR _ => true
  | .addAHl => true
  | .addAN _ => true
  | .adcAR _ => true
  | .adcAHl => true
  | .adcAN _ => true
  | .subR _ => true
  | .subHl => true
  | .subN _ => true
  | .sbcAR _ => true
  | .sbcAHl => true
  | .sbcAN _ => true
  | .andR _ => true
  | .andHl => true
  | .andN _ => true
  | .xorR _ => true
  | .xorHl => true
  | .xorN _ => true
  | .orR _ => true
  | .orHl => true
  | .orN _ => true
  | .cpR _ => true
  | .cpHl => true
  | .cpN _ => true
  | .incR _ => true
  | .incHl => true
  | .decR _ => true
  | .decHl => true
  | .daa => true
  | .cpl => true
  | .scf => true
  | .ccf => true
  | .addHlRr _ => true
  | .incRr _ => true
  | .decRr _ => true
  | .addSpE _ => true
  | .rlca => true
  | .rrca => true
  | .rla => true
  | .rra => true
  | .rlcR _ => true
  | .rlcHl => true
  | .rrcR _ => true
  | .rrcHl => true
  | .rlR _ => true
  | .rlHl => true
  | .rrR _ => true
  | .rrHl => true
  | .slaR _ => true
  | .slaHl => true
  | .sraR _ => true
  | .sraHl => true
  | .swapR _ => true
  | .swapHl => true
  | .srlR _ => true
  | .srlHl => true
  | .bitBR _ _ => true
  | .bitBHl _ => true
  | .resBR _ _ => true
  | .resBHl _ => true
  | .setBR _ _ => true
  | .setBHl _ => true
  | .jpNn _ => true
  | .jpCcNn cc _ => condition cc f
  | .jpHl => true
  | .jrE _ => true
  | .jrCcE cc _ => condition cc f
  | .callNn _ => true
  | .callCcNn cc _ => condition cc f
  | .ret => true
  | .retCc cc => condition cc f
  | .reti => true
  | .rst _ => true
  | .nop => true
  | .halt => true
  | .stop _ => true
  | .di => true
  | .ei => true

/-- The base cost that an instruction reports in a state (70_reset R452). -/
def baseCost (i : Instr) (s : State) : Nat := s.params.cost i (taken i s.cpu.flags)

/-- The successor that an instruction hands to the engine (40_load8 to 46_system). STOP's is not read. -/
def successor (i : Instr) (s : State) : Word :=
  match i with
  | .ldRR _ _ => s.cpu.pc + 1#16
  | .ldRN _ _ => s.cpu.pc + 2#16
  | .ldRHl _ => s.cpu.pc + 1#16
  | .ldHlR _ => s.cpu.pc + 1#16
  | .ldHlN _ => s.cpu.pc + 2#16
  | .ldABc => s.cpu.pc + 1#16
  | .ldADe => s.cpu.pc + 1#16
  | .ldBcA => s.cpu.pc + 1#16
  | .ldDeA => s.cpu.pc + 1#16
  | .ldANn _ => s.cpu.pc + 3#16
  | .ldNnA _ => s.cpu.pc + 3#16
  | .ldhAN _ => s.cpu.pc + 2#16
  | .ldhNA _ => s.cpu.pc + 2#16
  | .ldhAC => s.cpu.pc + 1#16
  | .ldhCA => s.cpu.pc + 1#16
  | .ldHliA => s.cpu.pc + 1#16
  | .ldAHli => s.cpu.pc + 1#16
  | .ldHldA => s.cpu.pc + 1#16
  | .ldAHld => s.cpu.pc + 1#16
  | .ldRrNn _ _ => s.cpu.pc + 3#16
  | .ldNnSp _ => s.cpu.pc + 3#16
  | .ldSpHl => s.cpu.pc + 1#16
  | .ldHlSpE _ => s.cpu.pc + 2#16
  | .pushRr _ => s.cpu.pc + 1#16
  | .pushAf => s.cpu.pc + 1#16
  | .popAf => s.cpu.pc + 1#16
  | .popRr _ => s.cpu.pc + 1#16
  | .addAR _ => s.cpu.pc + 1#16
  | .addAHl => s.cpu.pc + 1#16
  | .addAN _ => s.cpu.pc + 2#16
  | .adcAR _ => s.cpu.pc + 1#16
  | .adcAHl => s.cpu.pc + 1#16
  | .adcAN _ => s.cpu.pc + 2#16
  | .subR _ => s.cpu.pc + 1#16
  | .subHl => s.cpu.pc + 1#16
  | .subN _ => s.cpu.pc + 2#16
  | .sbcAR _ => s.cpu.pc + 1#16
  | .sbcAHl => s.cpu.pc + 1#16
  | .sbcAN _ => s.cpu.pc + 2#16
  | .andR _ => s.cpu.pc + 1#16
  | .andHl => s.cpu.pc + 1#16
  | .andN _ => s.cpu.pc + 2#16
  | .xorR _ => s.cpu.pc + 1#16
  | .xorHl => s.cpu.pc + 1#16
  | .xorN _ => s.cpu.pc + 2#16
  | .orR _ => s.cpu.pc + 1#16
  | .orHl => s.cpu.pc + 1#16
  | .orN _ => s.cpu.pc + 2#16
  | .cpR _ => s.cpu.pc + 1#16
  | .cpHl => s.cpu.pc + 1#16
  | .cpN _ => s.cpu.pc + 2#16
  | .incR _ => s.cpu.pc + 1#16
  | .incHl => s.cpu.pc + 1#16
  | .decR _ => s.cpu.pc + 1#16
  | .decHl => s.cpu.pc + 1#16
  | .daa => s.cpu.pc + 1#16
  | .cpl => s.cpu.pc + 1#16
  | .scf => s.cpu.pc + 1#16
  | .ccf => s.cpu.pc + 1#16
  | .addHlRr _ => s.cpu.pc + 1#16
  | .incRr _ => s.cpu.pc + 1#16
  | .decRr _ => s.cpu.pc + 1#16
  | .addSpE _ => s.cpu.pc + 2#16
  | .rlca => s.cpu.pc + 1#16
  | .rrca => s.cpu.pc + 1#16
  | .rla => s.cpu.pc + 1#16
  | .rra => s.cpu.pc + 1#16
  | .rlcR _ => s.cpu.pc + 2#16
  | .rlcHl => s.cpu.pc + 2#16
  | .rrcR _ => s.cpu.pc + 2#16
  | .rrcHl => s.cpu.pc + 2#16
  | .rlR _ => s.cpu.pc + 2#16
  | .rlHl => s.cpu.pc + 2#16
  | .rrR _ => s.cpu.pc + 2#16
  | .rrHl => s.cpu.pc + 2#16
  | .slaR _ => s.cpu.pc + 2#16
  | .slaHl => s.cpu.pc + 2#16
  | .sraR _ => s.cpu.pc + 2#16
  | .sraHl => s.cpu.pc + 2#16
  | .swapR _ => s.cpu.pc + 2#16
  | .swapHl => s.cpu.pc + 2#16
  | .srlR _ => s.cpu.pc + 2#16
  | .srlHl => s.cpu.pc + 2#16
  | .bitBR _ _ => s.cpu.pc + 2#16
  | .bitBHl _ => s.cpu.pc + 2#16
  | .resBR _ _ => s.cpu.pc + 2#16
  | .resBHl _ => s.cpu.pc + 2#16
  | .setBR _ _ => s.cpu.pc + 2#16
  | .setBHl _ => s.cpu.pc + 2#16
  | .jpNn nn => nn
  | .jpCcNn cc nn => if condition cc s.cpu.flags then nn else s.cpu.pc + 3#16
  | .jpHl => s.hl
  | .jrE e => s.cpu.pc + 2#16 + sext16 e
  | .jrCcE cc e => if condition cc s.cpu.flags then s.cpu.pc + 2#16 + sext16 e else s.cpu.pc + 2#16
  | .callNn nn => nn
  | .callCcNn cc nn => if condition cc s.cpu.flags then nn else s.cpu.pc + 3#16
  | .ret => stackTop s
  | .retCc cc => if condition cc s.cpu.flags then stackTop s else s.cpu.pc + 1#16
  | .reti => stackTop s
  | .rst t => BitVec.ofNat 16 (8 * t.toNat)
  | .nop => s.cpu.pc + 1#16
  | .halt => s.cpu.pc + 1#16
  | .stop _ => s.cpu.pc + 2#16
  | .di => s.cpu.pc + 1#16
  | .ei => s.cpu.pc + 1#16

/-- Whether a store to `a` can change what a read of `x` gives, in a state: the aliases of 20_memory R84, R86, R88, R89, R124. A store
into 0x0000-0x7FFF programs a bank register, and so can change the banked windows 0x4000-0x7FFF and 0xA000-0xBFFF; a store to cartridge RAM reaches every
address that shows the same cell, and a store to a clock register every address of the window. -/
def touches (s : State) (a x : Word) : Bool :=
  match route s.bus.bootActive a with
  | .boot => cartWindow x
  | .cartRom => cartWindow x
  | .cartRam =>
    match ramTarget s.params s.cart.mbc a with
    | .closed => false
    | .clock _ => ramWindow x
    | .cell k => ramWindow x && decide (ramTarget s.params s.cart.mbc x = .cell k)
    | .nibble k => ramWindow x && decide (ramTarget s.params s.cart.mbc x = .nibble k)
  | .wram => wramWindow x && decide (wramOffset x = wramOffset a)
  | .echo => wramWindow x && decide (wramOffset x = wramOffset a)
  | .bootDisable => decide (x.toNat ≤ 0x00FF)
  | .external _ => false
  | .p1 => decide (x = a)
  | .ifReg => decide (x = a)
  | .hram => decide (x = a)
  | .ieReg => decide (x = a)
where
  ramWindow (x : Word) : Bool := decide (0xA000 ≤ x.toNat) && decide (x.toNat ≤ 0xBFFF)
  cartWindow (x : Word) : Bool := (decide (0x4000 ≤ x.toNat) && decide (x.toNat ≤ 0x7FFF)) || ramWindow x
  wramWindow (x : Word) : Bool := decide (0xC000 ≤ x.toNat) && decide (x.toNat ≤ 0xFDFF)

/-- Whether a store to an address writes a bank register or a clock register. -/
def programsCart (s : State) (a : Word) : Bool :=
  match route s.bus.bootActive a with
  | .boot => true
  | .cartRom => true
  | .cartRam =>
    match ramTarget s.params s.cart.mbc a with
    | .clock _ => true
    | .closed => false
    | .cell _ => false
    | .nibble _ => false
  | .wram => false
  | .echo => false
  | .bootDisable => false
  | .external _ => false
  | .p1 => false
  | .ifReg => false
  | .hram => false
  | .ieReg => false

/-! ### Results, in the spec's own arithmetic -/

/-- The instruction is encoded by the bytes and completes: the next state is `t` with the PC at the target and its base cost reported,
which by default is `cost`. -/
def Completes (i : Instr) (bytes : List Byte) (taken : Bool) (cost : Nat) (s t : State) (target : Word) : Prop :=
  encode i = bytes ∧ defaultCost i taken = cost ∧ exec i s = .next ((t.setPc target).setCycles (s.params.cost i taken))

/-- The instruction completes, and the PC is after it. -/
def Runs (i : Instr) (bytes : List Byte) (cost : Nat) (s t : State) : Prop :=
  Completes i bytes true cost s t (s.cpu.pc + BitVec.ofNat 16 bytes.length)

/-- The instruction completes, and the PC is at the target. -/
def Goes (i : Instr) (bytes : List Byte) (cost : Nat) (s t : State) (target : Word) : Prop := Completes i bytes true cost s t target

/-- A conditional transfer: where the condition holds it goes to the target at the first cost, and else it runs on at the second with
nothing changed. -/
def Branches (i : Instr) (bytes : List Byte) (taken : Bool) (cost cost' : Nat) (s t : State) (target : Word) : Prop :=
  if taken then Completes i bytes true cost s t target
  else Completes i bytes false cost' s s (s.cpu.pc + BitVec.ofNat 16 bytes.length)

/-- The cartridge's RAM answers an access, and has at least so many bytes: it is enabled where the variant has an enable flag, and no
clock register stands in its place (20_memory R126, R129, R133, R137, R142, R145). -/
def ramOpen (s : State) (n : Nat) : Bool :=
  match s.cart.mbc with
  | .romOnly => decide (n ≤ s.params.ramLen)
  | .mbc1 m => m.ramEnabled && decide (n ≤ s.params.ramLen)
  | .mbc2 m => m.ramEnabled
  | .mbc3 m => m.ramAndTimerEnabled && !m.rtcMode && decide (n ≤ s.params.ramLen)
  | .mbc5 m => m.ramEnabled && decide (n ≤ s.params.ramLen)

/-- The address is one of a RAM that keeps a byte: WRAM, its echo, HRAM, IE, or open cartridge RAM of at least so many bytes
(20_memory R84). -/
def keeps (s : State) (n : Nat) (x : Word) : Bool :=
  (decide (0xC000 ≤ x.toNat) && decide (x.toNat ≤ 0xFDFF)) || decide (0xFF80 ≤ x.toNat) ||
    (decide (0xA000 ≤ x.toNat) && decide (x.toNat ≤ 0xBFFF) && ramOpen s n)

/-- The bits of a byte that an address keeps: the low nibble in MBC2's RAM (20_memory R137), and else all. -/
def keptBits (s : State) (x : Word) : Byte :=
  match s.cart.mbc with
  | .mbc2 _ => if 0xA000 ≤ x.toNat ∧ x.toNat ≤ 0xBFFF then 0x0F#8 else 0xFF#8
  | .romOnly => 0xFF#8
  | .mbc1 _ => 0xFF#8
  | .mbc3 _ => 0xFF#8
  | .mbc5 _ => 0xFF#8

/-- The state after two bytes are pushed: the high one at SP - 1 first, then the low one at SP - 2, which SP then is (20_memory R91). -/
def pushed (hi lo : Byte) (s : State) : State :=
  (memWrite (s.cpu.sp - 2#16) lo (memWrite (s.cpu.sp - 1#16) hi s)).setSp (s.cpu.sp - 2#16)

/-- The byte at SP, which a pop reads first, and the ports after it (20_memory R91). -/
def poppedLo (s : State) : Byte × State := memRead s.cpu.sp s

/-- The byte at SP + 1, which a pop reads second, and the ports after it (20_memory R91). -/
def poppedHi (s : State) : Byte × State := memRead (s.cpu.sp + 1#16) (poppedLo s).2

/-- The state after two bytes are popped: SP is two higher (20_memory R91). -/
def popped (s : State) : State := (poppedHi s).2.setSp (s.cpu.sp + 2#16)

/-- ADD and ADC of a byte and a carry in (42_alu8 R261, R264). -/
def added (v : Byte) (c : Nat) (s : State) : State :=
  let a := s.cpu.a.toNat
  let r := a + v.toNat + c
  (s.setReg .a (BitVec.ofNat 8 r)).setFlags
    ⟨decide (r % 256 = 0), false, decide (a % 16 + v.toNat % 16 + c > 0x0F), decide (r > 0xFF)⟩

/-- The flags of SUB, SBC and CP of a byte and a borrow in: `a - v - c` is an integer that may be negative
(42_alu8 R267, R270, R282). -/
def borrowFlags (a v c : Nat) : Flags :=
  ⟨decide (((a : Int) - v - c) % 256 = 0), true, decide (a % 16 < v % 16 + c), decide (a < v + c)⟩

/-- SUB and SBC of a byte and a borrow in (42_alu8 R267, R270). -/
def subtracted (v : Byte) (c : Nat) (s : State) : State :=
  let a := s.cpu.a.toNat
  (s.setReg .a (BitVec.ofInt 8 ((a : Int) - v.toNat - c))).setFlags (borrowFlags a v.toNat c)

/-- AND, XOR and OR: the result and the flag H (42_alu8 R273, R276, R279). -/
def combined (r : Byte) (h : Bool) (s : State) : State :=
  (s.setReg .a r).setFlags ⟨decide (r.toNat = 0), false, h, false⟩

/-- INC and DEC of a byte by an integer step of 1 or -1: the result, and the flags with N and H as given (42_alu8 R285, R287). -/
def stepped (v : Byte) (k : Int) (n h : Bool) (f : Flags) : Byte × Flags :=
  (BitVec.ofInt 8 (v.toNat + k), ⟨decide (((v.toNat : Int) + k) % 256 = 0), n, h, f.c⟩)

/-- DAA, line by line as its pseudocode, over the integers: the accumulator before it is cut to eight bits, and the carry
(42_alu8 R289). -/
def decimalAdjusted (a : Int) (f : Flags) : Int × Bool :=
  if !f.n then
    let p := if f.c || decide (a > 0x99) then (a + 0x60, true) else (a, f.c)
    if f.h || decide (p.1 % 16 > 0x09) then (p.1 + 0x06, p.2) else p
  else
    let p := if f.c then a - 0x60 else a
    (if f.h then p - 0x06 else p, f.c)

/-- The flags of `sp + e`: the carries are of the unsigned low byte of SP and the byte e (41_load16 R244; 43_alu16 R314). -/
def dispFlags (sp : Word) (e : Byte) : Flags :=
  ⟨false, false, decide (sp.toNat % 16 + e.toNat % 16 > 0x0F), decide (sp.toNat % 256 + e.toNat > 0xFF)⟩

/-- A bit of a byte, as the byte 0 or 1. -/
def bitOf (v : Byte) (k : Nat) : Byte := (v >>> k) &&& 0x01#8

/-- A flag as the byte 0 or 1 (00_scope R14). -/
def flagBit (c : Bool) : Byte := if c then 0x01#8 else 0x00#8

/-- The result and the bit shifted out of each rotate and shift, by the shifts of the rules (44_rotate_shift_bit R325 to R340). -/
def shifted (op : ShiftOp) (v : Byte) (c : Bool) : Byte × Byte :=
  match op with
  | .rlc => ((v <<< 1) ||| bitOf v 7, bitOf v 7)
  | .rrc => ((v >>> 1) ||| (bitOf v 0 <<< 7), bitOf v 0)
  | .rl => ((v <<< 1) ||| flagBit c, bitOf v 7)
  | .rr => ((v >>> 1) ||| (flagBit c <<< 7), bitOf v 0)
  | .sla => (v <<< 1, bitOf v 7)
  | .sra => ((v >>> 1) ||| (v &&& 0x80#8), bitOf v 0)
  | .swap => (((v &&& 0x0F#8) <<< 4) ||| (v >>> 4), 0x00#8)
  | .srl => (v >>> 1, bitOf v 0)

/-- The flags of a prefixed rotate or shift: Z of the result, N and H clear, C the bit shifted out (44_rotate_shift_bit R325). -/
def shiftedFlags (op : ShiftOp) (v : Byte) (c : Bool) : Flags :=
  ⟨decide ((shifted op v c).1.toNat = 0), false, false, decide ((shifted op v c).2 = 0x01#8)⟩

/-- A prefixed rotate or shift of a register. -/
def shiftedReg (op : ShiftOp) (r : Reg) (s : State) : State :=
  (s.setReg r (shifted op (s.cpu.get r) s.cpu.flags.c).1).setFlags (shiftedFlags op (s.cpu.get r) s.cpu.flags.c)

/-- A prefixed rotate or shift of the byte at HL: one read, then one write (20_memory R93). -/
def shiftedHl (op : ShiftOp) (s : State) : State :=
  let m := memRead s.hl s
  (memWrite s.hl (shifted op m.1 s.cpu.flags.c).1 m.2).setFlags (shiftedFlags op m.1 s.cpu.flags.c)

/-- A one-byte rotate of A: the prefixed result, with Z always 0 (44_rotate_shift_bit R321). -/
def rotatedA (op : ShiftOp) (s : State) : State :=
  (s.setReg .a (shifted op s.cpu.a s.cpu.flags.c).1).setFlags
    ⟨false, false, false, decide ((shifted op s.cpu.a s.cpu.flags.c).2 = 0x01#8)⟩

/-- The line of a bit is requested and enabled (60_exceptions R403). -/
def requested (k : Nat) (s : State) : Bool := s.bus.ie.getLsbD k && s.bus.iflag.getLsbD k

/-- The state after the entry of the line of a bit: its request and `ime` cleared, PC pushed, PC at the vector, the surcharge
12 (60_exceptions R405). -/
def entered (k : Nat) (vector : Word) (s : State) : State :=
  let t := (s.setIflag (s.bus.iflag &&& ~~~(1#5 <<< k))).setIme false
  ((pushed (hiByte s.cpu.pc) (loByte s.cpu.pc) t).setPc vector).setSurcharge 12

end Sys2Proof.Machine
end

