-- ==== Sys2Proof/Certificates/Slice0/Obligations.lean ====
section
/-!
DEFINITION. The statements about the block, for the provers. Each names the rules of spec/ it formalises.
-/

open Sys2Proof Sys2Proof.Machine

/-! ### Encoding -/

/-- Decoding what is encoded gives the instruction back, with every operand at every value, and leaves the bytes after it
(30_encoding R166, R174). -/
def Obligations.DecodeEncode : Prop :=
  ∀ (i : Instr) (rest : List Byte), i.wellFormed = true → decode (encode i ++ rest) = .ok (i, rest)

/-- What decodes is a well-formed instruction whose encoding the bytes begin with: no bit of an encoding is ignored and no two
instructions share one (30_encoding R166, R172). -/
def Obligations.EncodeDecode : Prop :=
  ∀ (bytes rest : List Byte) (i : Instr), decode bytes = .ok (i, rest) → i.wellFormed = true ∧ bytes = encode i ++ rest

/-- The valid encodings: all 256 prefixed opcodes and 244 unprefixed ones, of which 201, 26 and 17 have one, two and three bytes
(30_encoding R167); and the decoded value, which is the same whatever the immediates are, carries the fields of the opcode byte, and
determines the pair (prefixed, opcode) (R178). -/
def Obligations.ValidEncodings : Prop :=
  let all := (List.range 256).map (BitVec.ofNat 8)
  let mapped := fun (b : Byte) => (decodeOpcode false b 0#8 0#16).isSome
  let ofLength := fun (k : Nat) => (all.filter fun b => mapped b && decide (1 + bytesAfter b = k)).length
  (∀ op ∈ all, (decodeOpcode true op 0#8 0#16).isSome = true) ∧
    (all.filter fun b => !mapped b) =
      [0xCB#8, 0xD3#8, 0xDB#8, 0xDD#8, 0xE3#8, 0xE4#8, 0xEB#8, 0xEC#8, 0xED#8, 0xF4#8, 0xFC#8, 0xFD#8] ∧
    (all.filter mapped).length = 244 ∧ ofLength 1 = 201 ∧ ofLength 2 = 26 ∧ ofLength 3 = 17 ∧
    (∀ (pfx : Bool) (op n : Byte) (nn : Word), (decodeOpcode pfx op n nn).map Instr.value = decodeValue pfx op) ∧
    (∀ (pfx : Bool) (op : Byte) (v : Value), decodeValue pfx op = some v → ∀ f ∈ v.fields,
      match f with
      | .ddd d => d = R8.ofCode (op.extractLsb' 3 3)
      | .sss r => r = R8.ofCode (op.extractLsb' 0 3)
      | .rr p => p = R16.ofCode (op.extractLsb' 4 2)
      | .qq p => p = StkPair.ofCode (op.extractLsb' 4 2)
      | .cc d => d = Cond.ofCode (op.extractLsb' 3 2)
      | .ttt t => t = op.extractLsb' 3 3
      | .bbb b => b = op.extractLsb' 3 3) ∧
    (∀ (pfx pfx' : Bool) (op op' : Byte) (v : Value),
      decodeValue pfx op = some v → decodeValue pfx' op' = some v → pfx = pfx' ∧ op = op')

/-- Words written out from the spec's encodings decode to the instructions they stand for, one of each family. -/
def Obligations.DecoderWords : Prop :=
  decode [0b01000001#8] = .ok (.ldRR (.reg .b) (.reg .c), []) ∧
  decode [0x08#8, 0x00#8, 0xC4#8] = .ok (.ldNnSp 0xC400#16, []) ∧
  decode [0b10010010#8] = .ok (.subR (.reg .d), []) ∧
  decode [0b00111001#8] = .ok (.addHlRr .sp, []) ∧
  decode [0xCB#8, 0b01111111#8] = .ok (.bitBR 7#3 (.reg .a), []) ∧
  decode [0xCB#8, 0xCB#8] = .ok (.setBR 1#3 (.reg .e), []) ∧
  decode [0b11011100#8, 0x00#8, 0x20#8] = .ok (.callCcNn .c 0x2000#16, []) ∧
  decode [0x76#8] = .ok (.halt, []) ∧
  decode [0xD3#8, 0x00#8] = .error (.unmapped 0xD3#8 false)

/-! ### Registers, flags and operands -/

/-- The flags codec: the layout of the byte, the low four bits dropped on the way in and 0 on the way out (10_state R44). -/
def Obligations.FlagsCodec : Prop :=
  (∀ f : Flags, flagsToByte f =
    (flagBit f.z <<< 7) ||| (flagBit f.n <<< 6) ||| (flagBit f.h <<< 5) ||| (flagBit f.c <<< 4)) ∧
  (∀ b : Byte, byteToFlags b =
    ⟨decide (bitOf b 7 = 1#8), decide (bitOf b 6 = 1#8), decide (bitOf b 5 = 1#8), decide (bitOf b 4 = 1#8)⟩) ∧
  (∀ b : Byte, flagsToByte (byteToFlags b) = b &&& 0xF0#8) ∧
  (∀ f : Flags, byteToFlags (flagsToByte f) = f)

/-- The named pairs, high register first: what a pair reads, what writing it writes, and that nothing else moves; and the operand
fields of an opcode: every code of `r8`, `r16`, `r16stk` and `cond`, what it reads and what it writes
(10_state R45, R49, R50, R51, R52). -/
def Obligations.OperandFields : Prop :=
  (∀ u : Cpu, u.pair .bc = u.b ++ u.c ∧ u.pair .de = u.d ++ u.e ∧ u.pair .hl = u.h ++ u.l) ∧
  (∀ (u : Cpu) (v : Word), u.setPair .bc v = { u with b := hiByte v, c := loByte v } ∧
    u.setPair .de v = { u with d := hiByte v, e := loByte v } ∧ u.setPair .hl v = { u with h := hiByte v, l := loByte v }) ∧
  (∀ (u : Cpu) (p : Pair) (v : Word), (u.setPair p v).pair p = v ∧ u.setPair p (u.pair p) = u) ∧
  [0#3, 1#3, 2#3, 3#3, 4#3, 5#3, 6#3, 7#3].map R8.ofCode =
    [.reg .b, .reg .c, .reg .d, .reg .e, .reg .h, .reg .l, .ind, .reg .a] ∧
  [0#2, 1#2, 2#2, 3#2].map R16.ofCode = [.pair .bc, .pair .de, .pair .hl, .sp] ∧
  [0#2, 1#2, 2#2, 3#2].map StkPair.ofCode = [.pair .bc, .pair .de, .pair .hl, .af] ∧
  [0#2, 1#2, 2#2, 3#2].map Cond.ofCode = [.nz, .z, .nc, .c] ∧
  (∀ (s : State) (v : Byte), r8 .ind s = memRead s.hl s ∧ setR8 .ind v s = memWrite s.hl v s) ∧
  (∀ (s : State) (r q : Reg) (v : Byte), r8 (.reg r) s = (s.cpu.get r, s) ∧
    (setR8 (.reg r) v s).cpu.get q = if q = r then v else s.cpu.get q) ∧
  (∀ (s : State) (p : Pair) (v : Word), r16 (.pair p) s = s.cpu.pair p ∧ r16 .sp s = s.cpu.sp ∧
    setR16 (.pair p) v s = s.setPair p v ∧ setR16 .sp v s = s.setSp v) ∧
  (∀ (s : State) (p : Pair) (v : Word), r16stk (.pair p) s = s.cpu.pair p ∧
    r16stk .af s = s.cpu.a ++ flagsToByte s.cpu.flags ∧ setR16stk (.pair p) v s = s.setPair p v ∧
    setR16stk .af v s = (s.setReg .a (hiByte v)).setFlags (byteToFlags (loByte v))) ∧
  (∀ f : Flags, condition .nz f = !f.z ∧ condition .z f = f.z ∧ condition .nc f = !f.c ∧ condition .c f = f.c)

/-! ### Memory -/

/-- Every read through the bus, address by address: what the block answers, and that an answer changes nothing; where it has none
(an External region, 0xFF50, a clock register under `P_RTC_MODEL = draw`) the byte is drawn, and the access of an External area is
reported (20_memory R84, R85, R142). The model's choices in it: a draw is the script's next answer, or the free value of the draw
counter, which then advances, and nothing else changes (log entry 4, DESIGN CHOICE); an access is reported by appending it to
`ports.ext` (log entry 6, DESIGN CHOICE); a clock register's answer comes from the same draws and is not reported (log entry 14,
DESIGN CHOICE). -/
def Obligations.BusReads : Prop :=
  ∀ (addr : Word) (s : State),
    let a := addr.toNat
    peek addr s =
      (if a ≤ 0x00FF ∧ s.bus.bootActive = true then some (imageByte (s.params.boot.getD []) a)
      else if a ≤ 0x7FFF then some (cartRead s.params s.cart addr)
      else if a ≤ 0x9FFF then none
      else if a ≤ 0xBFFF then cartReadRam s.params s.cart addr
      else if a ≤ 0xDFFF then some (ramByte .wram s.bus.wram (a - 0xC000))
      else if a ≤ 0xFDFF then some (ramByte .wram s.bus.wram (a - 0xE000))
      else if a ≤ 0xFEFF then none
      else if a = 0xFF00 then some (p1Read s.bus.p1Select s.ports.input.buttons)
      else if a = 0xFF0F then some (0xE0#8 ||| s.bus.iflag.setWidth 8)
      else if a ≤ 0xFF7F then none
      else if a ≤ 0xFFFE then some (ramByte .hram s.bus.hram (a - 0xFF80))
      else some s.bus.ie) ∧
    memRead addr s =
      (match peek addr s with
      | some v => (v, s)
      | none =>
        drawByte
          (if 0xA000 ≤ a ∧ a ≤ 0xBFFF then s
          else s.report (.read (if a ≤ 0x9FFF then .vram else if a ≤ 0xFE9F then .oam else if a ≤ 0xFEFF then .unusable else .io)
            addr))) ∧
    drawByte s =
      (match s.ports.bytes with
      | v :: rest => (v, { s with ports := { s.ports with bytes := rest } })
      | [] => (Config.drawnByte s.ports.draws, { s with ports := { s.ports with draws := s.ports.draws + 1 } })) ∧
    ∀ x : ExtAccess, s.report x = { s with ports := { s.ports with ext := s.ports.ext ++ [x] } }

/-- Every write through the bus, address by address (20_memory R86). -/
def Obligations.BusWrites : Prop :=
  ∀ (addr : Word) (v : Byte) (s : State),
    let a := addr.toNat
    memWrite addr v s =
      if a ≤ 0x7FFF then { s with cart := { s.cart with mbc := s.cart.mbc.write addr v } }
      else if a ≤ 0x9FFF then s.report (.write .vram addr v)
      else if a ≤ 0xBFFF then { s with cart := cartWriteRam s.params s.cart addr v }
      else if a ≤ 0xDFFF then { s with bus := { s.bus with wram := s.bus.wram.put (a - 0xC000) v } }
      else if a ≤ 0xFDFF then { s with bus := { s.bus with wram := s.bus.wram.put (a - 0xE000) v } }
      else if a ≤ 0xFE9F then s.report (.write .oam addr v)
      else if a ≤ 0xFEFF then s.report (.write .unusable addr v)
      else if a = 0xFF00 then { s with bus := { s.bus with p1Select := v.extractLsb' 4 2 } }
      else if a = 0xFF0F then { s with bus := { s.bus with iflag := v.extractLsb' 0 5 } }
      else if a = 0xFF50 then { s with bus := { s.bus with bootActive := false } }
      else if a ≤ 0xFF7F then s.report (.write .io addr v)
      else if a ≤ 0xFFFE then { s with bus := { s.bus with hram := s.bus.hram.put (a - 0xFF80) v } }
      else { s with bus := { s.bus with ie := v } }

/-- Echo: a write through either of two addresses 0x2000 apart is seen by a read through the other, and is the same write
(20_memory R89). -/
def Obligations.EchoAlias : Prop :=
  ∀ (k : Nat) (v : Byte) (s : State), k < 0x1E00 →
    let a := BitVec.ofNat 16 (0xC000 + k)
    let e := BitVec.ofNat 16 (0xE000 + k)
    peek a s = peek e s ∧ memWrite a v s = memWrite e v s ∧ peek e (memWrite a v s) = some v ∧ peek a (memWrite e v s) = some v

/-- A read of an address that the block owns returns the last value written to it: WRAM, its echo, HRAM, IE and open cartridge RAM the
byte (MBC2's RAM its low nibble), a selected clock register under `frozen` the byte, IF its five bits, P1 the select lines
(20_memory R97, R137, R142). -/
def Obligations.ReadAfterWrite : Prop :=
  ∀ (addr : Word) (v : Byte) (s : State),
    let gives := fun (w : Byte) => memRead addr (memWrite addr v s) = (w, memWrite addr v s)
    (keeps s 1 addr = true → gives (v &&& keptBits s addr)) ∧
    (∀ m : Mbc3, 0xA000 ≤ addr.toNat → addr.toNat ≤ 0xBFFF → s.cart.mbc = .mbc3 m → m.ramAndTimerEnabled = true →
      m.rtcMode = true → s.params.rtcModel = .frozen → gives v) ∧
    (addr = 0xFF0F#16 → gives (0xE0#8 ||| (v &&& 0x1F#8))) ∧
    (addr = 0xFF00#16 → gives (p1Read (v.extractLsb' 4 2) s.ports.input.buttons))

/-- A write changes what no address reads as, but those that its address can reach: the frame of one store, over the whole address
space (20_memory R84, R86, R88, R89, R124). -/
def Obligations.WriteFrame : Prop :=
  ∀ (addr x : Word) (v : Byte) (s : State), touches s addr x = false → peek x (memWrite addr v s) = peek x s

/-- The stack primitives and 16-bit accesses: which byte goes where and in what order (20_memory R90, R91). -/
def Obligations.StackPrimitives : Prop :=
  (∀ (a : Word) (s : State), (memRead16 a s).1 = (memRead (a + 1#16) (memRead a s).2).1 ++ (memRead a s).1 ∧
    (memRead16 a s).2 = (memRead (a + 1#16) (memRead a s).2).2) ∧
  (∀ (a v : Word) (s : State),
    memWrite16 a v s = memWrite (a + 1#16) (v.extractLsb' 8 8) (memWrite a (v.extractLsb' 0 8) s)) ∧
  (∀ (v : Word) (s : State), push16 v s = pushed (v.extractLsb' 8 8) (v.extractLsb' 0 8) s) ∧
  (∀ s : State, pop16 s = ((poppedHi s).1 ++ (poppedLo s).1, popped s))

/-- A pop after a push gives the word back and leaves SP where it was, wherever both slots keep their bytes: in WRAM, its echo, HRAM, IE
and open cartridge RAM of two bytes or more, SP = 0x0000 included; a slot in MBC2's RAM keeps its low nibble (20_memory R91, R97,
R137). -/
def Obligations.StackRoundTrip : Prop :=
  ∀ (v : Word) (s : State), keeps s 2 (s.cpu.sp - 1#16) = true → keeps s 2 (s.cpu.sp - 2#16) = true →
    (pop16 (push16 v s)).1 =
      (v.extractLsb' 8 8 &&& keptBits s (s.cpu.sp - 1#16)) ++ (v.extractLsb' 0 8 &&& keptBits s (s.cpu.sp - 2#16)) ∧
    (pop16 (push16 v s)).2.cpu = s.cpu

/-- The button register, from the select lines and the step's buttons (20_memory R110). -/
def Obligations.ButtonRegister : Prop :=
  ∀ (sel : BitVec 2) (b : Buttons),
    let dir := (flagBit b.down <<< 3) ||| (flagBit b.up <<< 2) ||| (flagBit b.left <<< 1) ||| flagBit b.right
    let act := (flagBit b.start <<< 3) ||| (flagBit b.select <<< 2) ||| (flagBit b.b <<< 1) ||| flagBit b.a
    let chosen := (if sel.getLsbD 0 = false then dir else 0#8) ||| (if sel.getLsbD 1 = false then act else 0#8)
    p1Read sel b = 0xC0#8 ||| (sel.setWidth 8 <<< 4) ||| (~~~chosen &&& 0x0F#8)

/-! ### The cartridge -/

/-- The ROM windows of the five variants: the effective bank of each, and the offset cut to the length of the ROM; and MBC1's
effective RAM bank (20_memory R124, R129, R131, R132, R136, R141, R144). -/
def Obligations.RomWindows : Prop :=
  ∀ (p : Params) (ram : Memory) (addr : Word), addr.toNat ≤ 0x7FFF →
    let a := addr.toNat
    let window := fun (mbc : Mbc) (bank : Nat) => cartRead p ⟨ram, mbc⟩ addr =
      imageByte p.rom (if a ≤ 0x3FFF then a % p.romLen else (bank * 0x4000 + (a - 0x4000)) % p.romLen)
    (cartRead p ⟨ram, .romOnly⟩ addr = imageByte p.rom (a % p.romLen)) ∧
    (∀ m : Mbc1,
      let lo := if m.bankLo5 = 0#5 then 1 else m.bankLo5.toNat
      window (.mbc1 m) (if m.mode = 0#1 then m.bankHi2.toNat <<< 5 ||| lo else lo) ∧
        m.ramBank = if m.mode = 1#1 then m.bankHi2.toNat else 0) ∧
    (∀ m : Mbc2, window (.mbc2 m) (if m.bank4 = 0#4 then 1 else m.bank4.toNat)) ∧
    (∀ m : Mbc3, window (.mbc3 m) (if m.bank7 = 0#7 then 1 else m.bank7.toNat)) ∧
    (∀ m : Mbc5, window (.mbc5 m) (m.bankHi1.toNat <<< 8 ||| m.bankLo8.toNat))

/-- The bank registers: what a write to each part of 0x0000-0x7FFF does to each variant, and the bank that MBC3's then selects
(20_memory R125, R129, R130, R135, R138, R139, R140, R143). -/
def Obligations.BankRegisters : Prop :=
  ∀ (addr : Word) (v : Byte), addr.toNat ≤ 0x7FFF →
    let a := addr.toNat
    let on := decide (v = 0x0A#8)
    (Mbc.romOnly.write addr v = .romOnly) ∧
    (∀ m : Mbc1, Mbc.write (.mbc1 m) addr v = .mbc1
      (if a ≤ 0x1FFF then { m with ramEnabled := on } else if a ≤ 0x3FFF then { m with bankLo5 := v.extractLsb' 0 5 }
      else if a ≤ 0x5FFF then { m with bankHi2 := v.extractLsb' 0 2 } else { m with mode := v.extractLsb' 0 1 })) ∧
    (∀ m : Mbc2, Mbc.write (.mbc2 m) addr v = .mbc2
      (if a ≤ 0x1FFF then { m with ramEnabled := on } else if a ≤ 0x3FFF then { m with bank4 := v.extractLsb' 0 4 } else m)) ∧
    (∀ m : Mbc3, Mbc.write (.mbc3 m) addr v = .mbc3
      (if a ≤ 0x1FFF then { m with ramAndTimerEnabled := on } else if a ≤ 0x3FFF then { m with bank7 := v.extractLsb' 0 7 }
      else if a ≤ 0x5FFF then
        if 0x08 ≤ v.toNat ∧ v.toNat ≤ 0x0C then { m with rtcMode := true, rtcSel := BitVec.ofNat 3 (v.toNat - 0x08) }
        else { m with rtcMode := false, ramBank2 := v.extractLsb' 0 2 }
      else m) ∧
      m.romBank = if m.bank7 = 0#7 then 1 else m.bank7.toNat) ∧
    (∀ m : Mbc5, Mbc.write (.mbc5 m) addr v = .mbc5
      (if a ≤ 0x1FFF then { m with ramEnabled := on } else if a ≤ 0x2FFF then { m with bankLo8 := v }
      else if a ≤ 0x3FFF then { m with bankHi1 := v.extractLsb' 0 1 }
      else if a ≤ 0x5FFF then { m with ramBank4 := v.extractLsb' 0 4 } else m))

/-- The RAM window: what a read gives and a write does for each variant, the sentinel and no effect while the RAM is disabled or
absent included; which clock register each selection of MBC3 reads and writes; and RomOnly whole, which has no bank and takes no write
(20_memory R126, R129, R133, R137, R139, R142, R145). -/
def Obligations.RamWindow : Prop :=
  ∀ (p : Params) (ram : Memory) (addr : Word) (v : Byte),
    let a := addr.toNat - 0xA000
    let cell := fun (bank : Nat) => (bank * 0x2000 + a) % p.ramLen
    let shut := fun (mbc : Mbc) =>
      cartReadRam p ⟨ram, mbc⟩ addr = some p.ramSentinel ∧ cartWriteRam p ⟨ram, mbc⟩ addr v = ⟨ram, mbc⟩
    let onto := fun (mbc : Mbc) (k : Nat) =>
      cartReadRam p ⟨ram, mbc⟩ addr = some (ramByte .cartRam ram k) ∧ cartWriteRam p ⟨ram, mbc⟩ addr v = ⟨ram.put k v, mbc⟩
    (if p.ramLen = 0 then shut .romOnly else onto .romOnly (a % p.ramLen)) ∧
    (∀ low : Word, low.toNat ≤ 0x7FFF →
      cartRead p ⟨ram, .romOnly⟩ low = imageByte p.rom (low.toNat % p.romLen) ∧ Mbc.romOnly.write low v = .romOnly) ∧
    (∀ m : Mbc1, if m.ramEnabled = true ∧ p.ramLen ≠ 0 then onto (.mbc1 m) (cell (if m.mode = 1#1 then m.bankHi2.toNat else 0))
      else shut (.mbc1 m)) ∧
    (∀ m : Mbc2, if m.ramEnabled = true then
        cartReadRam p ⟨ram, .mbc2 m⟩ addr = some (ramByte .cartRam ram (a % 512) &&& 0x0F#8) ∧
        cartWriteRam p ⟨ram, .mbc2 m⟩ addr v = ⟨ram.put (a % 512) (v &&& 0x0F#8), .mbc2 m⟩
      else shut (.mbc2 m)) ∧
    (∀ m : Mbc3, if m.ramAndTimerEnabled = false then shut (.mbc3 m)
      else if m.rtcMode = true then
        cartReadRam p ⟨ram, .mbc3 m⟩ addr = (if p.rtcModel = .frozen then some (m.rtc.read m.rtcSel) else none) ∧
        cartWriteRam p ⟨ram, .mbc3 m⟩ addr v = ⟨ram, .mbc3 { m with rtc := m.rtc.write m.rtcSel v }⟩
      else if p.ramLen = 0 then shut (.mbc3 m) else onto (.mbc3 m) (cell m.ramBank2.toNat)) ∧
    (∀ m : Mbc5, if m.ramEnabled = true ∧ p.ramLen ≠ 0 then onto (.mbc5 m) (cell m.ramBank4.toNat) else shut (.mbc5 m)) ∧
    (∀ r : Rtc, [0#3, 1#3, 2#3, 3#3, 4#3].map r.read = [r.seconds, r.minutes, r.hours, r.dayLow, r.dayHigh]) ∧
    (∀ (r : Rtc) (sel sel' : BitVec 3), sel.toNat < 5 → sel'.toNat < 5 →
      (r.write sel v).read sel' = if sel' = sel then v else r.read sel')

/-- The boot overlay: any write to 0xFF50 turns it off whatever the value, and no step turns it on (20_memory R88; 10_state R59). -/
def Obligations.BootOverlay : Prop :=
  (∀ (v : Byte) (s : State), memWrite 0xFF50#16 v s = { s with bus := { s.bus with bootActive := false } }) ∧
  (∀ s t : State, step s = .next t → t.bus.bootActive = true → s.bus.bootActive = true)

/-- What construction fixes never changes: the configuration, and the cartridge's variant (10_state R67). -/
def Obligations.Configuration : Prop :=
  ∀ s t : State, step s = .next t → t.params = s.params ∧
    match s.cart.mbc with
    | .romOnly => t.cart.mbc = .romOnly
    | .mbc1 _ => ∃ m, t.cart.mbc = .mbc1 m
    | .mbc2 _ => ∃ m, t.cart.mbc = .mbc2 m
    | .mbc3 _ => ∃ m, t.cart.mbc = .mbc3 m
    | .mbc5 _ => ∃ m, t.cart.mbc = .mbc5 m

/-! ### Sessions -/

/-- The state at reset, with a boot image and without (10_state R70). The model's choices in it: RAM nothing has written is the empty
list (log entry 2, DESIGN CHOICE), the draws of construction are the launch's (log entry 13, DESIGN CHOICE), and MBC2's entries are cut
from the save's bytes (log entry 16, DEDUCED), and `P_POST_BOOT` covers the registers, SP, PC and IF alone (log entry 28, DESIGN
CHOICE). -/
def Obligations.ResetValues : Prop :=
  Start.postBoot = ⟨0x01#8, 0x00#8, 0x13#8, 0x00#8, 0xD8#8, 0x01#8, 0x4D#8, ⟨true, false, true, true⟩, 0xFFFE#16, 0x0100#16,
    0b00001#5⟩ ∧
  ∀ (x : Launch) (s : State), AtReset x s →
    (let r := if x.boot.isSome then x.drawn else x.postBoot
     s.cpu.pc = (if x.boot.isSome then 0x0000#16 else r.pc) ∧ s.cpu.sp = r.sp ∧ s.cpu.flags = r.flags ∧
      s.bus.iflag = r.iflag ∧ s.cpu.a = r.a ∧ s.cpu.b = r.b ∧ s.cpu.c = r.c ∧ s.cpu.d = r.d ∧ s.cpu.e = r.e ∧
      s.cpu.h = r.h ∧ s.cpu.l = r.l) ∧
    s.cpu.halted = false ∧ s.cpu.ime = false ∧ s.cpu.eiPending = false ∧ s.bus.wram = [] ∧ s.bus.hram = [] ∧
    s.bus.ie = 0x00#8 ∧ s.bus.bootActive = x.boot.isSome ∧ s.bus.p1Select = 0b11#2 ∧
    (match s.cart.mbc with
     | .romOnly => True
     | .mbc1 m => m = ⟨false, 0#5, 0#2, 0#1⟩
     | .mbc2 m => m = ⟨false, 1#4⟩
     | .mbc3 m => m = ⟨false, 1#7, 0#2, false, 0#3, x.drawnRtc⟩
     | .mbc5 m => m = ⟨false, 1#8, 0#1, 0#4⟩) ∧
    (match x.save with
     | some bytes => if s.params.battery = true ∧ x.collaborator = true ∧ s.params.ramLen ≠ 0 ∧ bytes.length = s.params.ramLen
        then ∀ k, k < bytes.length → Memory.get s.cart.ram k = some (s.cart.mbc.ramEntry (bytes.getD k 0#8))
        else s.cart.ram = []
     | none => s.cart.ram = [])

/-- The model's reset state is what construction gives for the parameters that log entry 1 names: 32 KiB of 0x00 (the model's
choice), and the spec's defaults. -/
def Obligations.ResetConstructed : Prop :=
  ∀ (drawn : Start) (rtc : Rtc),
    AtReset ⟨List.replicate 0x8000 0x00#8, none, false, none, 0x00#8, true, .draw, [], [], Start.postBoot, drawn, rtc⟩ State.reset

/-- The factory: the table of types, the table of sizes, and which construction fails and why (20_memory R120, R121, R122). That a ROM
whose type and RAM size are both unknown reports the type is the model's inference (log entry 20, DEDUCED). -/
def Obligations.Factory : Prop :=
  let types : List (Byte × CartType) :=
    [(0x00#8, ⟨.romOnly, false, false⟩), (0x08#8, ⟨.romOnly, false, false⟩), (0x09#8, ⟨.romOnly, true, false⟩),
     (0x01#8, ⟨.mbc1, false, false⟩), (0x02#8, ⟨.mbc1, false, false⟩), (0x03#8, ⟨.mbc1, true, false⟩),
     (0x05#8, ⟨.mbc2, false, false⟩), (0x06#8, ⟨.mbc2, true, false⟩), (0x0F#8, ⟨.mbc3, true, true⟩),
     (0x10#8, ⟨.mbc3, true, true⟩), (0x11#8, ⟨.mbc3, false, false⟩), (0x12#8, ⟨.mbc3, false, false⟩),
     (0x13#8, ⟨.mbc3, true, false⟩), (0x19#8, ⟨.mbc5, false, false⟩), (0x1A#8, ⟨.mbc5, false, false⟩),
     (0x1B#8, ⟨.mbc5, true, false⟩), (0x1C#8, ⟨.mbc5, false, false⟩), (0x1D#8, ⟨.mbc5, false, false⟩),
     (0x1E#8, ⟨.mbc5, true, false⟩)]
  let sizes : List (Byte × Nat) := [(0#8, 0), (1#8, 2048), (2#8, 8192), (3#8, 32768), (4#8, 131072), (5#8, 65536)]
  (∀ t : Byte, cartType t = types.lookup t) ∧ (∀ c : Byte, ramSize c = sizes.lookup c) ∧
  ∀ x : Launch,
    let t := x.rom.getD 0x147 0#8
    let c := x.rom.getD 0x149 0#8
    if x.rom.length < 0x150 then construct x = .error (.romTooShort x.rom.length)
    else
      match types.lookup t with
      | none => construct x = .error (.unknownType t)
      | some k =>
        match (if k.variant = .mbc2 then some 512 else sizes.lookup c) with
        | none => construct x = .error (.unknownRamSize c)
        | some n => ∃ s, construct x = .ok s ∧ s.cart.mbc = Mbc.reset k.variant x.drawnRtc ∧
          s.params.ramLen = n ∧ s.params.battery = k.battery ∧ s.params.hasRtc = k.hasRtc ∧ s.params.romLen = x.rom.length ∧ (∀ a, a < x.rom.length → imageByte s.params.rom a = x.rom.getD a 0#8)

/-- The save game: the whole buffer is dumped, what is loaded is what is dumped, a save of another length is ignored, the calls do
nothing without battery-backed RAM and a collaborator, and neither touches a bank register (20_memory R127). The model's inferences in
it: MBC2's entries are cut from a save's bytes on load and dump (log entry 16, DEDUCED), and a cartridge without a RAM buffer has no
battery-backed RAM (log entry 24, DEDUCED). -/
def Obligations.SaveGame : Prop :=
  ∀ (p : Params) (c : Cart) (bytes : List Byte),
    (loadSavegame p (some bytes) c).mbc = c.mbc ∧ loadSavegame p none c = c ∧
    (if p.battery = true ∧ p.collaborator = true ∧ p.ramLen ≠ 0 then
      (∃ image, dumpSavegame p c = some image ∧ image.length = p.ramLen ∧
        ∀ k, k < p.ramLen → image[k]? = some (c.mbc.ramEntry (ramByte .cartRam c.ram k))) ∧
      if bytes.length = p.ramLen then
        dumpSavegame p (loadSavegame p (some bytes) c) = some (bytes.map c.mbc.ramEntry)
      else loadSavegame p (some bytes) c = c
    else loadSavegame p (some bytes) c = c ∧ dumpSavegame p c = none)

/-- What the host may do after a failed step, and does on Quit: a failed step names the PC it stands at; a skip moves only the PC, by
the width of the failing encoding, and steps again with the inputs and answers that the failed step has not taken; Quit dumps the save
game before it stops the sinks (10_state R41; 60_exceptions R406, R407, R430). That the ports hold what is left of the scripts is the
model's form of it (log entries 4 and 19). -/
def Obligations.HostMoves : Prop :=
  (∀ (s : State) (op : Byte) (pfx : Bool) (pc : Word), step s = .fault (.decodeFailure op pfx pc) →
    pc = s.cpu.pc ∧ hostSkip (step s) s = some ((attempted s).setPc (s.cpu.pc + (if pfx = true then 2#16 else 1#16)))) ∧
  (∀ (s : State) (op : Byte) (pc : Word), step s = .refused (.unmodelled op pc) →
    op = 0x10#8 ∧ pc = s.cpu.pc ∧ hostSkip (step s) s = some ((attempted s).setPc (s.cpu.pc + 2#16))) ∧
  (∀ s : State,
    let first := memRead s.cpu.pc (takeInput s)
    let spent := if first.1 = 0xCB#8 then (memRead (s.cpu.pc + 1#16) first.2).2 else first.2
    attempted s = { s with ports := spent.ports } ∧
      (∀ (i : StepInput) (rest : List StepInput), s.ports.inputs = i :: rest → (attempted s).ports.inputs = rest)) ∧
  (∀ s : State, quitCalls s = [.dumpSavegame (dumpSavegame s.params s.cart), .stopSinks, .terminate])

/-- The run of a launch: it ends at the exit address, which is a fixed point: with its two bytes placed and no interrupt enabled, a step
leaves everything but IF and the ports as it was; it is faulted by an illegal byte, and refused at STOP and at a form that the full table
maps and `P_DECODE_SET` leaves out; and it hangs while halted with no line that can become pending (60_exceptions R431, R432). -/
def Obligations.ExitLoop : Prop :=
  (∀ (e : Word) (s : State), atExit e s = true → exitPlaced e (takeInput s) = true → s.cpu.ime = false → s.cpu.eiPending = false →
    s.params.decodeOmits.contains (false, 0x18#8) = false →
    ∃ t, step s = .next t ∧ atExit e t = true ∧ t.cpu = { s.cpu with enableAfter := false } ∧ t.cart = s.cart ∧
      t.bus = { s.bus with iflag := s.bus.iflag ||| (takeInput s).ports.input.req.setWidth 5 }) ∧
  (∀ (k : Nat) (e : Word) (x : Launch) (s : State), AtReset x s → runLaunch k e x = .ok (runFrom k e s)) ∧
  (∀ (k : Nat) (e : Word) (s : State), atExit e s = true → runFrom k e s = .ended s) ∧
  (∀ (k : Nat) (e : Word) (s t : State), atExit e s = false → step s = .next t → runFrom (k + 1) e s = runFrom k e t) ∧
  (∀ (k : Nat) (e : Word) (s : State) (op : Byte), atExit e s = false → s.cpu.halted = false →
    let illegal := [0xD3#8, 0xDB#8, 0xDD#8, 0xE3#8, 0xE4#8, 0xEB#8, 0xEC#8, 0xED#8, 0xF4#8, 0xFC#8, 0xFD#8]
    let run := runFrom (k + 1) e s
    (peek s.cpu.pc (takeInput s) = some op → op ≠ 0xCB#8 →
      (op ∈ illegal → run = .faulted (.decodeFailure op false s.cpu.pc)) ∧
      (op ∉ illegal → s.params.decodeOmits.contains (false, op) = true → run = .refused (.leftOut op false s.cpu.pc)) ∧
      (op = 0x10#8 → s.params.decodeOmits.contains (false, op) = false → run = .refused (.unmodelled op s.cpu.pc))) ∧
    (peek s.cpu.pc (takeInput s) = some 0xCB#8 → peek (s.cpu.pc + 1#16) (takeInput s) = some op →
      s.params.decodeOmits.contains (true, op) = true → run = .refused (.leftOut op true s.cpu.pc))) ∧
  (∀ (k : Nat) (e : Word) (s : State), s.cpu.halted = true →
    s.bus.ie &&& 0x07#8 = 0x00#8 ∨
      (s.bus.ie &&& s.bus.iflag.setWidth 8 &&& 0x07#8 = 0x00#8 ∧ k ≤ s.ports.inputs.length ∧
        ∀ i ∈ s.ports.inputs.take k, i.req = 0#3) →
    ∃ t, runFrom k e s = .going t ∧ t.cpu.halted = true ∧ t.cpu.pc = s.cpu.pc)

/-! ### Invariants -/

/-- The invariant holds at the model's reset state, whose cartridge and parameters are log entry 1's choice (DESIGN CHOICE). -/
def Obligations.ResetInvariant : Prop := State.reset.inv = true

/-- Every step keeps the invariant, from every state that has it (10_state R56, R61, R63; 20_memory R87, R124, R137, R139). -/
def Obligations.StepInvariant : Prop := ∀ s t : State, s.inv = true → step s = .next t → t.inv = true

/-- Every state that construction gives has the invariant, and it is an entry at its start PC with the fixed values of the reset table
listed (70_reset R441, R445). What `P_POST_BOOT` covers and the form of the premise are the model's (log entries 28 and 29, DESIGN
CHOICE). -/
def Obligations.ConstructInvariant : Prop :=
  ∀ (x : Launch) (s : State), AtReset x s →
    s.inv = true ∧
    AtEntry (if x.boot.isSome then 0x0000#16 else x.postBoot.pc)
      [.halted false, .ime false, .eiPending false, .ie 0x00#8, .bootActive x.boot.isSome, .p1Select 0b11#2] s

/-! ### The step -/

/-- When the bytes at the PC decode to an instruction, the step is `exec` of it on the state with its bytes read and the EI delay
moved, and then the engine's stages, in order (60_exceptions R401). -/
def Obligations.StepRunsDecoded : Prop :=
  ∀ (s : State) (i : Instr) (rest : List Byte), s.cpu.halted = false →
    decode (fetchBytes s.cpu.pc (takeInput s)).1 = .ok (i, rest) →
    s.params.decodeOmits.contains (opcodePair (fetchBytes s.cpu.pc (takeInput s)).1) = false →
    step s =
      match exec i (moveDelay (fetchBytes s.cpu.pc (takeInput s)).2) with
      | .next v => .next (service (commit s.cpu.pc (wake (mergeReq (applyEnable v)))))
      | .fault f => .fault f
      | .refused r => .refused r

/-- When the encoding of a well-formed instruction stands in memory at the PC, byte after byte, the step runs that instruction on the
state with its inputs taken and the EI delay moved (20_memory R95, R101; 30_encoding R170; 60_exceptions R401). So does the first step
of a fragment launched mid-session whose entry fixes those bytes and the running engine, whatever its other fields are
(70_reset R445; the form of the premise is the model's, log entry 29, DESIGN CHOICE). -/
def Obligations.StepRunsPlaced : Prop :=
  (∀ (s : State) (i : Instr), i.wellFormed = true → s.cpu.halted = false →
    (∀ k, k < (encode i).length → peek (s.cpu.pc + BitVec.ofNat 16 k) (takeInput s) = (encode i)[k]?) →
    s.params.decodeOmits.contains (opcodePair (encode i)) = false →
    step s =
      match exec i (moveDelay (takeInput s)) with
      | .next v => .next (finishStep s.cpu.pc v)
      | .fault f => .fault f
      | .refused r => .refused r) ∧
  ∀ (pc : Word) (i : Instr) (rest : List Byte) (fixed : List Fixed) (s : State), i.wellFormed = true →
    AtEntry pc (.halted false :: codeAt pc (encode i ++ rest) ++ fixed) s →
    s.params.decodeOmits.contains (opcodePair (encode i)) = false →
    step s =
      match exec i (moveDelay (takeInput s)) with
      | .next v => .next (finishStep pc v)
      | .fault f => .fault f
      | .refused r => .refused r

/-- The stages around an instruction: the inputs arrive, the EI delay moves, EI takes effect, the requests are merged, a pending line
wakes the engine, and the PC is committed unless it is halted (60_exceptions R401, R404). The model's choices in it (DESIGN CHOICE): the
inputs come from a script, and where it is empty as the free value of a counter, which advances (log entry 4); the input stays on the
ports (log entry 5); what the step before sent out, `ext`, `cycles` and `surcharge`, is emptied when the inputs are taken
(log entry 6); and `enable_after` is a field (log entry 7). -/
def Obligations.EngineStages : Prop :=
  ∀ (s : State) (pc0 : Word) (i : StepInput) (rest : List StepInput),
    (s.ports.inputs = i :: rest →
      takeInput s = { s with ports := { s.ports with inputs := rest, input := i, ext := [], cycles := 0, surcharge := 0 } }) ∧
    (s.ports.inputs = [] →
      takeInput s =
        { s with
          ports :=
            { s.ports with
              draws := s.ports.draws + 1, input := Config.stepInput s.ports.draws, ext := [], cycles := 0, surcharge := 0 } }) ∧
    moveDelay s = { s with cpu := { s.cpu with enableAfter := s.cpu.eiPending, eiPending := false } } ∧
    applyEnable s = { s with cpu := { s.cpu with ime := s.cpu.ime || s.cpu.enableAfter, enableAfter := false } } ∧
    mergeReq s = { s with bus := { s.bus with iflag := s.bus.iflag ||| s.ports.input.req.setWidth 5 } } ∧
    wake s = s.setHalted (s.cpu.halted && decide (s.bus.ie &&& s.bus.iflag.setWidth 8 &&& 0x07#8 = 0x00#8)) ∧
    commit pc0 s = s.setPc (if s.cpu.halted = true then pc0 else s.cpu.pc)

/-- An illegal first byte, and a pair outside `P_DECODE_SET`, end the step with a DecodeFailure that carries the failing byte, whether
it was prefixed, and the PC (30_encoding R168, R169; 60_exceptions R406). -/
def Obligations.DecodeFailures : Prop :=
  ∀ (s : State) (op : Byte), s.cpu.halted = false →
    (peek s.cpu.pc (takeInput s) = some op → op ≠ 0xCB#8 →
      op ∈ [0xD3#8, 0xDB#8, 0xDD#8, 0xE3#8, 0xE4#8, 0xEB#8, 0xEC#8, 0xED#8, 0xF4#8, 0xFC#8, 0xFD#8] ∨
        s.params.decodeOmits.contains (false, op) = true →
      step s = .fault (.decodeFailure op false s.cpu.pc)) ∧
    (peek s.cpu.pc (takeInput s) = some 0xCB#8 → peek (s.cpu.pc + 1#16) (takeInput s) = some op →
      s.params.decodeOmits.contains (true, op) = true → step s = .fault (.decodeFailure op true s.cpu.pc))

/-- STOP is mapped and refused, with its opcode and the PC, wherever it runs, and so is a step that fetches it
(46_system R393; 60_exceptions R407). -/
def Obligations.StopRefused : Prop :=
  ∀ (n : Byte) (s : State), encode (.stop n) = [0x10#8, n] ∧ exec (.stop n) s = .refused (.unmodelled 0x10#8 s.cpu.pc) ∧
    ∀ u : State, nextInstr (takeInput s) = .ok (.stop n, u) → step s = .refused (.unmodelled 0x10#8 s.cpu.pc)

/-- A halted step reads nothing at PC and costs what HALT does, 4 by default; with no line pending after the merge, PC stays; with one,
the engine wakes and PC is the address after the HALT, and the evaluator follows (60_exceptions R402). The model's choices in it (DESIGN CHOICE): the script and the counter of the inputs
(log entry 4), the input kept on the ports (log entry 5), `ext`, `cycles` and `surcharge` emptied first (log entry 6), and `enable_after`
as a field (log entry 7). -/
def Obligations.HaltedStep : Prop :=
  ∀ s : State, s.cpu.halted = true →
    let received : StepInput × Ports :=
      match s.ports.inputs with
      | i :: rest => (i, { s.ports with inputs := rest })
      | [] => (Config.stepInput s.ports.draws, { s.ports with draws := s.ports.draws + 1 })
    let flags := s.bus.iflag ||| received.1.req.setWidth 5
    let still : State :=
      { s with
        cpu := { s.cpu with ime := s.cpu.ime || s.cpu.eiPending, eiPending := false, enableAfter := false },
        bus := { s.bus with iflag := flags },
        ports := { received.2 with input := received.1, ext := [], cycles := s.params.cost .halt, surcharge := 0 } }
    step s = .next (if s.bus.ie &&& flags.setWidth 8 &&& 0x07#8 = 0x00#8 then still
      else service { still with cpu := { still.cpu with halted := false, pc := s.cpu.pc + 1#16 } }) ∧
    (s.params.cycles = [] → s.params.cost .halt = 4)

/-- The interrupt line evaluator: nothing while `ime` is false; else the lowest pending line alone is taken, at its vector: its bit
and `ime` are cleared, PC is pushed, the surcharge is 12, and nothing else is saved; the port `cycles` keeps the base cost, and the step
reports their sum. It comes last in the step, after the PC is committed (60_exceptions R401, R405, R410, R411). -/
def Obligations.InterruptEntry : Prop :=
  (∀ (pc0 : Word) (s : State), finishStep pc0 s = service (commit pc0 (wake (mergeReq (applyEnable s))))) ∧
  (∀ s : State, service s =
    if s.cpu.ime = false then s
    else if requested 0 s = true then entered 0 0x0040#16 s
    else if requested 1 s = true then entered 1 0x0048#16 s
    else if requested 2 s = true then entered 2 0x0050#16 s
    else s) ∧
  ∀ s : State, s.ports.surcharge = 0 →
    (service s).ports.cycles = s.ports.cycles ∧
    (service s).reported =
      s.ports.cycles + if s.cpu.ime && (requested 0 s || requested 1 s || requested 2 s) then 12 else 0

/-- The delay of EI: EI leaves `ime` as it was and arms the delay; the instruction after it runs first, and then `ime` is true; DI as
that instruction cancels it; without the delay EI acts at once (60_exceptions R413; 46_system R394, R395). -/
def Obligations.EnableDelay : Prop :=
  ∀ (s u : State) (i : Instr), nextInstr (takeInput s) = .ok (i, u) → (∀ n, i ≠ .stop n) →
    ∃ v, exec i (moveDelay u) = .next v ∧ step s = .next (finishStep s.cpu.pc v) ∧
      (s.cpu.eiPending = true → i ≠ .di → (applyEnable v).cpu.ime = true) ∧
      (i = .di → (finishStep s.cpu.pc v).cpu.ime = false ∧ (finishStep s.cpu.pc v).cpu.eiPending = false ∧
        (finishStep s.cpu.pc v).cpu.sp = s.cpu.sp) ∧
      (i = .ei → s.params.eiDelay = true → (applyEnable v).cpu.eiPending = true ∧
        (s.cpu.eiPending = false → (applyEnable v).cpu.ime = s.cpu.ime)) ∧
      (i = .ei → s.params.eiDelay = false → (applyEnable v).cpu.ime = true)

/-- Requests are invisible to a program that has interrupts off, but in IF: two steps that differ only in the requests they receive,
with `ime` off, no delay under way, and an instruction that neither halts nor enables at once, end in states that differ only in IF,
each with its own requests merged, and in the input itself; EI under `P_EI_DELAY = 1` is such an instruction
(60_exceptions R404, R412, R413). That the inputs are a script and the input stays on the ports is the model's form of them
(log entries 4 and 5, DESIGN CHOICE). -/
def Obligations.RequestIsolation : Prop :=
  ∀ (s t u : State) (i : Instr) (q q' : BitVec 3) (b : Buttons) (rest : List StepInput),
    s.ports.inputs = ⟨q, b⟩ :: rest → nextInstr (takeInput s) = .ok (i, u) → i ≠ .halt → i ≠ .reti →
    (i = .ei → s.params.eiDelay = true) → s.cpu.ime = false → s.cpu.eiPending = false → step s = .next t →
    ∃ f : BitVec 5, t.bus.iflag = f ||| q.setWidth 5 ∧
      step { s with ports := { s.ports with inputs := ⟨q', b⟩ :: rest } } =
        .next { t with bus := { t.bus with iflag := f ||| q'.setWidth 5 }, ports := { t.ports with input := ⟨q', b⟩ } }

/-! ### What instructions leave alone, over the whole instruction set -/

/-- Every instruction but STOP completes in every state: nothing traps, no mode or operand forbids one; the successor is that of its
rule, and the cost that of its row of `P_CYCLES`, or of the default table where the parameter gives no row
(40_load8 to 46_system; 00_scope R12; 60_exceptions R416, R418; 70_reset R452). -/
def Obligations.Completion : Prop :=
  ∀ (i : Instr) (s : State), (∀ n, i ≠ .stop n) →
    ∃ t, exec i s = .next t ∧ t.cpu.pc = successor i s ∧ t.ports.cycles = baseCost i s ∧
      baseCost i s =
        (match s.params.cycles.find? fun row => decide (row.rule = i.rule) with
        | some row => if taken i s.cpu.flags then row.taken else row.notTaken
        | none => defaultCost i (taken i s.cpu.flags))

/-- A general register that is not an instruction's destination is unchanged (40_load8 to 46_system). -/
def Obligations.RegisterFrame : Prop :=
  ∀ (i : Instr) (s t : State) (r : Reg), exec i s = .next t → r ∉ dests i → t.cpu.get r = s.cpu.get r

/-- Each flag follows the instruction's flags column: kept, cleared, set, or computed (40_load8 to 46_system). -/
def Obligations.FlagFrame : Prop :=
  ∀ (i : Instr) (s t : State), exec i s = .next t → (flagEffect i).holds s.cpu.flags t.cpu.flags

/-- SP is unchanged but by the instructions that use the stack or write SP; `halted` but by HALT; `ime` but by DI, EI and RETI;
`ei_pending` but by DI and EI; the configuration, the inputs and the surcharge by none (10_state R47, R53, R54, R55, R67). -/
def Obligations.EngineFrame : Prop :=
  ∀ (i : Instr) (s t : State), exec i s = .next t →
    (writesSp i s.cpu.flags = false → t.cpu.sp = s.cpu.sp) ∧
    (i ≠ .halt → t.cpu.halted = s.cpu.halted) ∧
    (i ≠ .di → i ≠ .ei → i ≠ .reti → t.cpu.ime = s.cpu.ime) ∧
    (i ≠ .di → i ≠ .ei → t.cpu.eiPending = s.cpu.eiPending) ∧
    (i ≠ .di → t.cpu.enableAfter = s.cpu.enableAfter) ∧
    t.params = s.params ∧ t.ports.inputs = s.ports.inputs ∧ t.ports.input = s.ports.input ∧
    t.ports.surcharge = s.ports.surcharge

/-- Every address that no store of the instruction can reach reads as before: every address, for an instruction that stores nothing
(40_load8 to 46_system; 20_memory R84). -/
def Obligations.MemoryFrame : Prop :=
  ∀ (i : Instr) (s t : State) (x : Word), exec i s = .next t → (∀ a ∈ storesAt i s, touches s a x = false) → peek x t = peek x s

/-- A register of the bus or the cartridge is unchanged unless the instruction stores to its address, and the stores are unchanged by
an instruction that stores nothing (10_state R57 to R60, R62 to R65; 20_memory R86). -/
def Obligations.ControlFrame : Prop :=
  ∀ (i : Instr) (s t : State), exec i s = .next t →
    (0xFFFF#16 ∉ storesAt i s → t.bus.ie = s.bus.ie) ∧
    (0xFF0F#16 ∉ storesAt i s → t.bus.iflag = s.bus.iflag) ∧
    (0xFF00#16 ∉ storesAt i s → t.bus.p1Select = s.bus.p1Select) ∧
    (0xFF50#16 ∉ storesAt i s → t.bus.bootActive = s.bus.bootActive) ∧
    ((∀ a ∈ storesAt i s, programsCart s a = false) → t.cart.mbc = s.cart.mbc) ∧
    (storesAt i s = [] → t.bus = s.bus ∧ t.cart = s.cart)

/-! ### Results, family by family -/

/-- Loads between registers and of an immediate byte (40_load8 R201, R202). -/
def Obligations.LoadRegisters : Prop :=
  ∀ (s : State) (dst r : Reg) (n : Byte),
    Runs (.ldRR (.reg dst) (.reg r)) [0b01#2 ++ (R8.reg dst).code ++ (R8.reg r).code] 4 s (s.setReg dst (s.cpu.get r)) ∧
    Runs (.ldRN (.reg dst) n) [0b00#2 ++ (R8.reg dst).code ++ 0b110#3, n] 8 s (s.setReg dst n)

/-- Loads from memory: one read at the instruction's address, and the byte in the register; the HL forms move HL after it
(40_load8 R203, R206, R207, R210, R212, R214, R217, R219). -/
def Obligations.LoadsFromMemory : Prop :=
  ∀ (s : State) (dst : Reg) (n : Byte) (nn : Word),
    let from_ := fun (r : Reg) (a : Word) => (memRead a s).2.setReg r (memRead a s).1
    Runs (.ldRHl (.reg dst)) [0b01#2 ++ (R8.reg dst).code ++ 0b110#3] 8 s (from_ dst (s.cpu.pair .hl)) ∧
    Runs .ldABc [0x0A#8] 8 s (from_ .a (s.cpu.pair .bc)) ∧
    Runs .ldADe [0x1A#8] 8 s (from_ .a (s.cpu.pair .de)) ∧
    Runs (.ldANn nn) [0xFA#8, loByte nn, hiByte nn] 16 s (from_ .a nn) ∧
    Runs (.ldhAN n) [0xF0#8, n] 12 s (from_ .a (0xFF#8 ++ n)) ∧
    Runs .ldhAC [0xF2#8] 8 s (from_ .a (0xFF#8 ++ s.cpu.c)) ∧
    Runs .ldAHli [0x2A#8] 8 s ((from_ .a (s.cpu.pair .hl)).setPair .hl (s.cpu.pair .hl + 1#16)) ∧
    Runs .ldAHld [0x3A#8] 8 s ((from_ .a (s.cpu.pair .hl)).setPair .hl (s.cpu.pair .hl - 1#16))

/-- Stores of a byte: one write at the instruction's address; the HL forms move HL after it
(40_load8 R204, R205, R208, R209, R211, R213, R215, R216, R218). -/
def Obligations.StoresToMemory : Prop :=
  ∀ (s : State) (r : Reg) (n : Byte) (nn : Word),
    Runs (.ldHlR (.reg r)) [0b01110#5 ++ (R8.reg r).code] 8 s (memWrite (s.cpu.pair .hl) (s.cpu.get r) s) ∧
    Runs (.ldHlN n) [0x36#8, n] 12 s (memWrite (s.cpu.pair .hl) n s) ∧
    Runs .ldBcA [0x02#8] 8 s (memWrite (s.cpu.pair .bc) s.cpu.a s) ∧
    Runs .ldDeA [0x12#8] 8 s (memWrite (s.cpu.pair .de) s.cpu.a s) ∧
    Runs (.ldNnA nn) [0xEA#8, loByte nn, hiByte nn] 16 s (memWrite nn s.cpu.a s) ∧
    Runs (.ldhNA n) [0xE0#8, n] 12 s (memWrite (0xFF#8 ++ n) s.cpu.a s) ∧
    Runs .ldhCA [0xE2#8] 8 s (memWrite (0xFF#8 ++ s.cpu.c) s.cpu.a s) ∧
    Runs .ldHliA [0x22#8] 8 s ((memWrite (s.cpu.pair .hl) s.cpu.a s).setPair .hl (s.cpu.pair .hl + 1#16)) ∧
    Runs .ldHldA [0x32#8] 8 s ((memWrite (s.cpu.pair .hl) s.cpu.a s).setPair .hl (s.cpu.pair .hl - 1#16))

/-- The 16-bit loads (41_load16 R241 to R244). -/
def Obligations.Loads16 : Prop :=
  ∀ (s : State) (p : Pair) (e : Byte) (nn : Word),
    Runs (.ldRrNn (.pair p) nn) [0b00#2 ++ (R16.pair p).code ++ 0b0001#4, loByte nn, hiByte nn] 12 s (s.setPair p nn) ∧
    Runs (.ldRrNn .sp nn) [0x31#8, loByte nn, hiByte nn] 12 s (s.setSp nn) ∧
    Runs (.ldNnSp nn) [0x08#8, loByte nn, hiByte nn] 20 s
      (memWrite (nn + 1#16) (s.cpu.sp.extractLsb' 8 8) (memWrite nn (s.cpu.sp.extractLsb' 0 8) s)) ∧
    Runs .ldSpHl [0xF9#8] 8 s (s.setSp (s.cpu.pair .hl)) ∧
    Runs (.ldHlSpE e) [0xF8#8, e] 12 s
      ((s.setPair .hl (BitVec.ofInt 16 (s.cpu.sp.toNat + e.toInt))).setFlags (dispFlags s.cpu.sp e))

/-- PUSH and POP: the high register at SP - 1 and the low one at SP - 2, or the flags byte; POP the other way
(41_load16 R245 to R248). -/
def Obligations.PushPop : Prop :=
  ∀ (s : State) (p : Pair),
    Runs (.pushRr (.pair p)) [0b11#2 ++ (StkPair.pair p).code ++ 0b0101#4] 16 s
      (pushed (s.cpu.get (Pair.hi p)) (s.cpu.get (Pair.lo p)) s) ∧
    Runs .pushAf [0xF5#8] 16 s (pushed s.cpu.a (flagsToByte s.cpu.flags) s) ∧
    Runs .popAf [0xF1#8] 12 s
      (((popped s).setReg .a (poppedHi s).1).setFlags (byteToFlags (poppedLo s).1)) ∧
    Runs (.popRr (.pair p)) [0b11#2 ++ (StkPair.pair p).code ++ 0b0001#4] 12 s
      (((popped s).setReg (Pair.hi p) (poppedHi s).1).setReg (Pair.lo p) (poppedLo s).1)

/-- ADD and ADC, in each of their three forms (42_alu8 R261 to R266). -/
def Obligations.Additions : Prop :=
  ∀ (s : State) (r : Reg) (n : Byte),
    let c := s.cpu.flags.c.toNat
    let m := memRead (s.cpu.pair .hl) s
    Runs (.addAR (.reg r)) [0b10000#5 ++ (R8.reg r).code] 4 s (added (s.cpu.get r) 0 s) ∧
    Runs .addAHl [0x86#8] 8 s (added m.1 0 m.2) ∧
    Runs (.addAN n) [0xC6#8, n] 8 s (added n 0 s) ∧
    Runs (.adcAR (.reg r)) [0b10001#5 ++ (R8.reg r).code] 4 s (added (s.cpu.get r) c s) ∧
    Runs .adcAHl [0x8E#8] 8 s (added m.1 c m.2) ∧
    Runs (.adcAN n) [0xCE#8, n] 8 s (added n c s)

/-- SUB, SBC and CP, in each of their three forms; CP writes the flags alone (42_alu8 R267 to R272, R282 to R284). -/
def Obligations.Subtractions : Prop :=
  ∀ (s : State) (r : Reg) (n : Byte),
    let c := s.cpu.flags.c.toNat
    let a := s.cpu.a.toNat
    let m := memRead (s.cpu.pair .hl) s
    Runs (.subR (.reg r)) [0b10010#5 ++ (R8.reg r).code] 4 s (subtracted (s.cpu.get r) 0 s) ∧
    Runs .subHl [0x96#8] 8 s (subtracted m.1 0 m.2) ∧
    Runs (.subN n) [0xD6#8, n] 8 s (subtracted n 0 s) ∧
    Runs (.sbcAR (.reg r)) [0b10011#5 ++ (R8.reg r).code] 4 s (subtracted (s.cpu.get r) c s) ∧
    Runs .sbcAHl [0x9E#8] 8 s (subtracted m.1 c m.2) ∧
    Runs (.sbcAN n) [0xDE#8, n] 8 s (subtracted n c s) ∧
    Runs (.cpR (.reg r)) [0b10111#5 ++ (R8.reg r).code] 4 s (s.setFlags (borrowFlags a (s.cpu.get r).toNat 0)) ∧
    Runs .cpHl [0xBE#8] 8 s (m.2.setFlags (borrowFlags a m.1.toNat 0)) ∧
    Runs (.cpN n) [0xFE#8, n] 8 s (s.setFlags (borrowFlags a n.toNat 0))

/-- AND, XOR and OR, in each of their three forms (42_alu8 R273 to R281). -/
def Obligations.Logic : Prop :=
  ∀ (s : State) (r : Reg) (n : Byte),
    let a := s.cpu.a
    let m := memRead (s.cpu.pair .hl) s
    Runs (.andR (.reg r)) [0b10100#5 ++ (R8.reg r).code] 4 s (combined (a &&& s.cpu.get r) true s) ∧
    Runs .andHl [0xA6#8] 8 s (combined (a &&& m.1) true m.2) ∧
    Runs (.andN n) [0xE6#8, n] 8 s (combined (a &&& n) true s) ∧
    Runs (.xorR (.reg r)) [0b10101#5 ++ (R8.reg r).code] 4 s (combined (a ^^^ s.cpu.get r) false s) ∧
    Runs .xorHl [0xAE#8] 8 s (combined (a ^^^ m.1) false m.2) ∧
    Runs (.xorN n) [0xEE#8, n] 8 s (combined (a ^^^ n) false s) ∧
    Runs (.orR (.reg r)) [0b10110#5 ++ (R8.reg r).code] 4 s (combined (a ||| s.cpu.get r) false s) ∧
    Runs .orHl [0xB6#8] 8 s (combined (a ||| m.1) false m.2) ∧
    Runs (.orN n) [0xF6#8, n] 8 s (combined (a ||| n) false s)

/-- INC and DEC of a byte, DAA, CPL, SCF and CCF (42_alu8 R285 to R292). -/
def Obligations.StepsAndAdjusts : Prop :=
  ∀ (s : State) (dst : Reg),
    let f := s.cpu.flags
    let v := s.cpu.get dst
    let m := memRead (s.cpu.pair .hl) s
    let up := fun (v : Byte) => stepped v 1 false (decide (v.toNat % 16 = 0x0F)) f
    let down := fun (v : Byte) => stepped v (-1) true (decide (v.toNat % 16 = 0x00)) f
    let q := decimalAdjusted s.cpu.a.toNat f
    Runs (.incR (.reg dst)) [0b00#2 ++ (R8.reg dst).code ++ 0b100#3] 4 s ((s.setReg dst (up v).1).setFlags (up v).2) ∧
    Runs .incHl [0x34#8] 12 s ((memWrite (s.cpu.pair .hl) (up m.1).1 m.2).setFlags (up m.1).2) ∧
    Runs (.decR (.reg dst)) [0b00#2 ++ (R8.reg dst).code ++ 0b101#3] 4 s ((s.setReg dst (down v).1).setFlags (down v).2) ∧
    Runs .decHl [0x35#8] 12 s ((memWrite (s.cpu.pair .hl) (down m.1).1 m.2).setFlags (down m.1).2) ∧
    Runs .daa [0x27#8] 4 s
      ((s.setReg .a (BitVec.ofInt 8 q.1)).setFlags ⟨decide (q.1 % 256 = 0), f.n, false, q.2⟩) ∧
    Runs .cpl [0x2F#8] 4 s ((s.setReg .a (~~~s.cpu.a)).setFlags ⟨f.z, true, true, f.c⟩) ∧
    Runs .scf [0x37#8] 4 s (s.setFlags ⟨f.z, false, false, true⟩) ∧
    Runs .ccf [0x3F#8] 4 s (s.setFlags ⟨f.z, false, false, !f.c⟩)

/-- DAA does what it is for: after an ADD of two packed decimal numbers, or a SUB, it gives the packed decimal sum or difference
modulo 100, with the decimal carry or borrow in C (42_alu8 R261, R267, R289). -/
def Obligations.DecimalArithmetic : Prop :=
  ∀ x y : Nat, x < 100 → y < 100 →
    let packed := fun (k : Nat) => BitVec.ofNat 8 (k / 10 * 16 + k % 10)
    (let p := alu .add (packed x) (packed y) false
     (daaByte p.1 p.2).1 = packed ((x + y) % 100) ∧ (daaByte p.1 p.2).2.c = decide (100 ≤ x + y)) ∧
    (let p := alu .sub (packed x) (packed y) false
     (daaByte p.1 p.2).1 = packed ((100 + x - y) % 100) ∧ (daaByte p.1 p.2).2.c = decide (x < y))

/-- The 16-bit arithmetic: carries out of bits 11 and 15 and Z kept in ADD HL; no flag in INC and DEC; a signed byte in ADD SP
(43_alu16 R311 to R314). -/
def Obligations.Arithmetic16 : Prop :=
  ∀ (s : State) (p : Pair) (e : Byte),
    let hl := (s.cpu.pair .hl).toNat
    let sum := fun (v : Nat) => (s.setPair .hl (BitVec.ofNat 16 (hl + v))).setFlags
      ⟨s.cpu.flags.z, false, decide (hl % 0x1000 + v % 0x1000 > 0x0FFF), decide (hl + v > 0xFFFF)⟩
    Runs (.addHlRr (.pair p)) [0b00#2 ++ (R16.pair p).code ++ 0b1001#4] 8 s (sum (s.cpu.pair p).toNat) ∧
    Runs (.addHlRr .sp) [0x39#8] 8 s (sum s.cpu.sp.toNat) ∧
    Runs (.incRr (.pair p)) [0b00#2 ++ (R16.pair p).code ++ 0b0011#4] 8 s (s.setPair p (s.cpu.pair p + 1#16)) ∧
    Runs (.incRr .sp) [0x33#8] 8 s (s.setSp (s.cpu.sp + 1#16)) ∧
    Runs (.decRr (.pair p)) [0b00#2 ++ (R16.pair p).code ++ 0b1011#4] 8 s (s.setPair p (s.cpu.pair p - 1#16)) ∧
    Runs (.decRr .sp) [0x3B#8] 8 s (s.setSp (s.cpu.sp - 1#16)) ∧
    Runs (.addSpE e) [0xE8#8, e] 16 s
      ((s.setSp (BitVec.ofInt 16 (s.cpu.sp.toNat + e.toInt))).setFlags (dispFlags s.cpu.sp e))

/-- The rotates: of A in one byte, with Z always 0, and of a register or the byte at HL (44_rotate_shift_bit R321 to R332). -/
def Obligations.Rotates : Prop :=
  ∀ (s : State) (r : Reg),
    Runs .rlca [0x07#8] 4 s (rotatedA .rlc s) ∧ Runs .rrca [0x0F#8] 4 s (rotatedA .rrc s) ∧
    Runs .rla [0x17#8] 4 s (rotatedA .rl s) ∧ Runs .rra [0x1F#8] 4 s (rotatedA .rr s) ∧
    Runs (.rlcR (.reg r)) [0xCB#8, 0b00000#5 ++ (R8.reg r).code] 8 s (shiftedReg .rlc r s) ∧
    Runs .rlcHl [0xCB#8, 0x06#8] 16 s (shiftedHl .rlc s) ∧
    Runs (.rrcR (.reg r)) [0xCB#8, 0b00001#5 ++ (R8.reg r).code] 8 s (shiftedReg .rrc r s) ∧
    Runs .rrcHl [0xCB#8, 0x0E#8] 16 s (shiftedHl .rrc s) ∧
    Runs (.rlR (.reg r)) [0xCB#8, 0b00010#5 ++ (R8.reg r).code] 8 s (shiftedReg .rl r s) ∧
    Runs .rlHl [0xCB#8, 0x16#8] 16 s (shiftedHl .rl s) ∧
    Runs (.rrR (.reg r)) [0xCB#8, 0b00011#5 ++ (R8.reg r).code] 8 s (shiftedReg .rr r s) ∧
    Runs .rrHl [0xCB#8, 0x1E#8] 16 s (shiftedHl .rr s)

/-- The shifts and SWAP, of a register and of the byte at HL (44_rotate_shift_bit R333 to R340). -/
def Obligations.Shifts : Prop :=
  ∀ (s : State) (r : Reg),
    Runs (.slaR (.reg r)) [0xCB#8, 0b00100#5 ++ (R8.reg r).code] 8 s (shiftedReg .sla r s) ∧
    Runs .slaHl [0xCB#8, 0x26#8] 16 s (shiftedHl .sla s) ∧
    Runs (.sraR (.reg r)) [0xCB#8, 0b00101#5 ++ (R8.reg r).code] 8 s (shiftedReg .sra r s) ∧
    Runs .sraHl [0xCB#8, 0x2E#8] 16 s (shiftedHl .sra s) ∧
    Runs (.swapR (.reg r)) [0xCB#8, 0b00110#5 ++ (R8.reg r).code] 8 s (shiftedReg .swap r s) ∧
    Runs .swapHl [0xCB#8, 0x36#8] 16 s (shiftedHl .swap s) ∧
    Runs (.srlR (.reg r)) [0xCB#8, 0b00111#5 ++ (R8.reg r).code] 8 s (shiftedReg .srl r s) ∧
    Runs .srlHl [0xCB#8, 0x3E#8] 16 s (shiftedHl .srl s)

/-- BIT, RES and SET, of a register and of the byte at HL (44_rotate_shift_bit R341 to R346). -/
def Obligations.Bits : Prop :=
  ∀ (s : State) (r : Reg) (b : BitVec 3),
    let f := s.cpu.flags
    let v := s.cpu.get r
    let m := memRead (s.cpu.pair .hl) s
    let one : Byte := 0x01#8 <<< b.toNat
    Runs (.bitBR b (.reg r)) [0xCB#8, 0b01#2 ++ b ++ (R8.reg r).code] 8 s
      (s.setFlags ⟨decide (bitOf v b.toNat = 0#8), false, true, f.c⟩) ∧
    Runs (.bitBHl b) [0xCB#8, 0b01#2 ++ b ++ 0b110#3] 12 s
      (m.2.setFlags ⟨decide (bitOf m.1 b.toNat = 0#8), false, true, f.c⟩) ∧
    Runs (.resBR b (.reg r)) [0xCB#8, 0b10#2 ++ b ++ (R8.reg r).code] 8 s (s.setReg r (v &&& ~~~one)) ∧
    Runs (.resBHl b) [0xCB#8, 0b10#2 ++ b ++ 0b110#3] 16 s (memWrite (s.cpu.pair .hl) (m.1 &&& ~~~one) m.2) ∧
    Runs (.setBR b (.reg r)) [0xCB#8, 0b11#2 ++ b ++ (R8.reg r).code] 8 s (s.setReg r (v ||| one)) ∧
    Runs (.setBHl b) [0xCB#8, 0b11#2 ++ b ++ 0b110#3] 16 s (memWrite (s.cpu.pair .hl) (m.1 ||| one) m.2)

/-- The jumps (45_control R361 to R365). -/
def Obligations.Jumps : Prop :=
  ∀ (s : State) (cc : Cond) (e : Byte) (nn : Word),
    let near := BitVec.ofInt 16 ((s.cpu.pc.toNat : Int) + 2 + e.toInt)
    let holds := condition cc s.cpu.flags
    Goes (.jpNn nn) [0xC3#8, loByte nn, hiByte nn] 16 s s nn ∧
    Branches (.jpCcNn cc nn) [0b110#3 ++ cc.code ++ 0b010#3, loByte nn, hiByte nn] holds 16 12 s s nn ∧
    Goes .jpHl [0xE9#8] 4 s s (s.cpu.pair .hl) ∧
    Goes (.jrE e) [0x18#8, e] 12 s s near ∧
    Branches (.jrCcE cc e) [0b001#3 ++ cc.code ++ 0b000#3, e] holds 12 8 s s near

/-- The calls, restarts and returns: what is pushed, where the PC goes, and RETI sets `ime` at once (45_control R366 to R371). -/
def Obligations.CallsAndReturns : Prop :=
  ∀ (s : State) (cc : Cond) (t : BitVec 3) (nn : Word),
    let holds := condition cc s.cpu.flags
    let after := fun (k : Word) => pushed ((s.cpu.pc + k).extractLsb' 8 8) ((s.cpu.pc + k).extractLsb' 0 8) s
    let back := (poppedHi s).1 ++ (poppedLo s).1
    Goes (.callNn nn) [0xCD#8, loByte nn, hiByte nn] 24 s (after 3#16) nn ∧
    Branches (.callCcNn cc nn) [0b110#3 ++ cc.code ++ 0b100#3, loByte nn, hiByte nn] holds 24 12 s (after 3#16) nn ∧
    Goes .ret [0xC9#8] 16 s (popped s) back ∧
    Branches (.retCc cc) [0b110#3 ++ cc.code ++ 0b000#3] holds 20 8 s (popped s) back ∧
    Goes .reti [0xD9#8] 16 s ((popped s).setIme true) back ∧
    Goes (.rst t) [0b11#2 ++ t ++ 0b111#3] 16 s (after 1#16) (BitVec.ofNat 16 (t.toNat <<< 3))

/-- NOP, HALT, DI and EI (46_system R391, R392, R394, R395). -/
def Obligations.SystemControl : Prop :=
  ∀ s : State,
    Runs .nop [0x00#8] 4 s s ∧
    Runs .halt [0x76#8] 4 s (s.setHalted true) ∧
    Runs .di [0xF3#8] 4 s { s with cpu := { s.cpu with ime := false, eiPending := false, enableAfter := false } } ∧
    Runs .ei [0xFB#8] 4 s (if s.params.eiDelay = true then s.setEiPending true else s.setIme true)
end

