-- ==== Sys2Proof/Laws/Memory.lean ====
section
/-!
SUPPORT. The laws of a store: a read after a write, and the canonical form that every operation keeps.
-/

namespace Sys2Proof.Machine

@[simp] theorem Memory.get_put_self (m : Memory) (a : Nat) (v : Byte) : (m.put a v).get a = some v := by
  induction m with
  | nil => simp [Memory.put, Memory.get]
  | cons c m ih =>
    obtain ⟨k, w⟩ := c
    unfold Memory.put
    split
    · simp [Memory.get]
    · split
      · simp [Memory.get]
      · rw [Memory.get, if_neg (by omega), ih]

theorem Memory.get_put_other (m : Memory) {a b : Nat} (v : Byte) (h : b ≠ a) : (m.put a v).get b = m.get b := by
  induction m with
  | nil => simp [Memory.put, Memory.get, Ne.symm h]
  | cons c m ih =>
    obtain ⟨k, w⟩ := c
    unfold Memory.put
    split
    · subst_vars
      simp [Memory.get, Ne.symm h]
    · split
      · rw [Memory.get, if_neg (Ne.symm h)]
      · simp only [Memory.get, ih]

theorem Memory.get_drop_other (m : Memory) {a b : Nat} (h : b ≠ a) : (m.drop a).get b = m.get b := by
  induction m with
  | nil => rfl
  | cons c m ih =>
    obtain ⟨k, w⟩ := c
    unfold Memory.drop
    split
    · subst_vars
      rw [Memory.get, if_neg (Ne.symm h)]
    · simp only [Memory.get, ih]

theorem Memory.rising_mono {m : Memory} {lo hi : Nat} (h : lo ≤ hi) (hm : m.rising hi = true) : m.rising lo = true := by
  cases m with
  | nil => rfl
  | cons c m =>
    simp only [Memory.rising, Bool.and_eq_true, decide_eq_true_eq] at hm ⊢
    exact ⟨by omega, hm.2⟩

theorem Memory.get_below {m : Memory} {lo a : Nat} (hm : m.rising lo = true) (h : a < lo) : m.get a = none := by
  induction m generalizing lo with
  | nil => rfl
  | cons c m ih =>
    simp only [Memory.rising, Bool.and_eq_true, decide_eq_true_eq] at hm
    rw [Memory.get, if_neg (by omega)]
    exact ih hm.2 (by omega)

theorem Memory.get_drop_self {m : Memory} {lo : Nat} (hm : m.rising lo = true) (a : Nat) : (m.drop a).get a = none := by
  induction m generalizing lo with
  | nil => rfl
  | cons c m ih =>
    obtain ⟨k, w⟩ := c
    simp only [Memory.rising, Bool.and_eq_true, decide_eq_true_eq] at hm
    unfold Memory.drop
    split
    · subst_vars
      exact Memory.get_below hm.2 (by omega)
    · rename_i h
      rw [Memory.get, if_neg (by omega)]
      exact ih hm.2

theorem Memory.rising_put {m : Memory} {lo a : Nat} (v : Byte) (hm : m.rising lo = true) (h : lo ≤ a) :
    (m.put a v).rising lo = true := by
  induction m generalizing lo with
  | nil => simp [Memory.put, Memory.rising, h]
  | cons c m ih =>
    obtain ⟨k, w⟩ := c
    simp only [Memory.rising, Bool.and_eq_true, decide_eq_true_eq] at hm
    unfold Memory.put
    split
    · subst_vars
      simp [Memory.rising, hm]
    · split
      · simp only [Memory.rising, Bool.and_eq_true, decide_eq_true_eq]
        exact ⟨h, by omega, hm.2⟩
      · simp only [Memory.rising, Bool.and_eq_true, decide_eq_true_eq]
        exact ⟨hm.1, ih hm.2 (by omega)⟩

theorem Memory.rising_drop {m : Memory} {lo : Nat} (a : Nat) (hm : m.rising lo = true) : (m.drop a).rising lo = true := by
  induction m generalizing lo with
  | nil => rfl
  | cons c m ih =>
    obtain ⟨k, w⟩ := c
    simp only [Memory.rising, Bool.and_eq_true, decide_eq_true_eq] at hm
    unfold Memory.drop
    split
    · exact Memory.rising_mono (by omega) hm.2
    · simp only [Memory.rising, Bool.and_eq_true, decide_eq_true_eq]
      exact ⟨hm.1, ih hm.2⟩

theorem Memory.all_put {m : Memory} {P : Host.Cell → Bool} {a : Nat} {v : Byte} (hm : m.all P = true) (h : P (a, v) = true) :
    (m.put a v).all P = true := by
  induction m with
  | nil => simp [Memory.put, h]
  | cons c m ih =>
    obtain ⟨k, w⟩ := c
    simp only [List.all_cons, Bool.and_eq_true] at hm
    unfold Memory.put
    split
    · simp only [List.all_cons, h, hm.2, Bool.and_self]
    · split
      · simp only [List.all_cons, h, hm.1, hm.2, Bool.and_self]
      · simp only [List.all_cons, hm.1, ih hm.2, Bool.and_self]

theorem Memory.all_drop {m : Memory} {P : Host.Cell → Bool} (a : Nat) (hm : m.all P = true) : (m.drop a).all P = true := by
  induction m with
  | nil => rfl
  | cons c m ih =>
    obtain ⟨k, w⟩ := c
    simp only [List.all_cons, Bool.and_eq_true] at hm
    unfold Memory.drop
    split
    · exact hm.2
    · simp only [List.all_cons, hm.1, ih hm.2, Bool.and_self]

theorem Memory.set_wf {m : Memory} (rest : Option Byte) (a : Nat) (v : Byte) (hm : m.wf rest = true) :
    (Memory.set rest m a v).wf rest = true := by
  simp only [Memory.wf, Bool.and_eq_true] at hm ⊢
  unfold Memory.set
  split
  · exact ⟨Memory.rising_drop a hm.1, Memory.all_drop a hm.2⟩
  · exact ⟨Memory.rising_put v hm.1 (Nat.zero_le a), Memory.all_put hm.2 (by simpa using ‹_›)⟩

/-- Writing the value an unlisted offset reads as, or any other, reads back. -/
theorem Memory.get_set_self {m : Memory} (rest : Option Byte) (a : Nat) (v : Byte) (hm : m.wf rest = true) :
    ((Memory.set rest m a v).get a).or rest = some v := by
  simp only [Memory.wf, Bool.and_eq_true] at hm
  unfold Memory.set
  split
  · rw [Memory.get_drop_self hm.1, Option.none_or, ‹some v = rest›]
  · rw [Memory.get_put_self]; rfl

theorem Memory.get_set_other (m : Memory) (rest : Option Byte) {a b : Nat} (v : Byte) (h : b ≠ a) :
    (Memory.set rest m a v).get b = m.get b := by
  unfold Memory.set
  split
  · exact Memory.get_drop_other m h
  · exact Memory.get_put_other m v h

/-- A write inside a RAM keeps its canonical form. -/
theorem Memory.put_within {size : Nat} {m : Memory} {a : Nat} (v : Byte) (hm : m.within size = true) (h : a < size) :
    (m.put a v).within size = true := by
  simp only [Memory.within, Memory.wf, Bool.and_eq_true] at hm ⊢
  exact ⟨⟨Memory.rising_put v hm.1.1 (Nat.zero_le a), Memory.all_put hm.1.2 (by simp [Store.rest])⟩,
    Memory.all_put hm.2 (by simpa using h)⟩

@[simp] theorem ramByte_put_self (store : Store) (m : Memory) (a : Nat) (v : Byte) : ramByte store (m.put a v) a = v := by
  simp [ramByte]

theorem ramByte_put_other (store : Store) (m : Memory) {a b : Nat} (v : Byte) (h : b ≠ a) :
    ramByte store (m.put a v) b = ramByte store m b := by
  simp only [ramByte, Memory.get_put_other m v h]

/-- The value of a byte does not depend on how the store came to hold it: equal reads of canonical stores are equal stores. -/
theorem Memory.ext_of_rising {m n : Memory} {lo : Nat} (hm : m.rising lo = true) (hn : n.rising lo = true)
    (h : ∀ a, m.get a = n.get a) : m = n := by
  induction m generalizing n lo with
  | nil =>
    cases n with
    | nil => rfl
    | cons c n =>
      have := h c.1
      simp [Memory.get] at this
  | cons c m ih =>
    cases n with
    | nil =>
      have := h c.1
      simp [Memory.get] at this
    | cons d n =>
      obtain ⟨k, v⟩ := c
      obtain ⟨l, w⟩ := d
      simp only [Memory.rising, Bool.and_eq_true, decide_eq_true_eq] at hm hn
      have hkl : k = l := by
        have h1 := h k
        have h2 := h l
        simp only [Memory.get] at h1 h2
        rcases Nat.lt_trichotomy k l with hlt | heq | hgt
        · rw [if_neg (by omega : ¬ l = k), Memory.get_below hn.2 (by omega)] at h1
          simp at h1
        · exact heq
        · rw [if_neg (by omega : ¬ k = l), Memory.get_below hm.2 (by omega)] at h2
          simp at h2
      subst hkl
      have hv := h k
      simp only [Memory.get, if_true, Option.some.injEq] at hv
      subst hv
      congr 1
      refine ih hm.2 hn.2 fun a => ?_
      by_cases ha : k = a
      · subst ha
        rw [Memory.get_below hm.2 (by omega), Memory.get_below hn.2 (by omega)]
      · have := h a
        simpa [Memory.get, ha] using this

end Sys2Proof.Machine
end

