-- ==== Sys2Proof/Laws/State.lean ====
section
/-!
SUPPORT. What each update of the state leaves and what it writes: one lemma per field per update.
-/

namespace Sys2Proof.Machine

/-! ### The register file -/

@[simp] theorem Cpu.get_a (u : Cpu) : u.get .a = u.a := rfl
@[simp] theorem Cpu.get_b (u : Cpu) : u.get .b = u.b := rfl
@[simp] theorem Cpu.get_c (u : Cpu) : u.get .c = u.c := rfl
@[simp] theorem Cpu.get_d (u : Cpu) : u.get .d = u.d := rfl
@[simp] theorem Cpu.get_e (u : Cpu) : u.get .e = u.e := rfl
@[simp] theorem Cpu.get_h (u : Cpu) : u.get .h = u.h := rfl
@[simp] theorem Cpu.get_l (u : Cpu) : u.get .l = u.l := rfl

theorem Cpu.get_set (u : Cpu) (r q : Reg) (v : Byte) : (u.set r v).get q = if q = r then v else u.get q := by
  cases r <;> cases q <;> rfl

@[simp] theorem Cpu.get_set_self (u : Cpu) (r : Reg) (v : Byte) : (u.set r v).get r = v := by cases r <;> rfl

theorem Cpu.get_set_other (u : Cpu) {r q : Reg} (v : Byte) (h : q ≠ r) : (u.set r v).get q = u.get q := by
  rw [Cpu.get_set, if_neg h]

@[simp] theorem Cpu.set_flags (u : Cpu) (r : Reg) (v : Byte) : (u.set r v).flags = u.flags := by cases r <;> rfl
@[simp] theorem Cpu.set_sp (u : Cpu) (r : Reg) (v : Byte) : (u.set r v).sp = u.sp := by cases r <;> rfl
@[simp] theorem Cpu.set_pc (u : Cpu) (r : Reg) (v : Byte) : (u.set r v).pc = u.pc := by cases r <;> rfl
@[simp] theorem Cpu.set_halted (u : Cpu) (r : Reg) (v : Byte) : (u.set r v).halted = u.halted := by cases r <;> rfl
@[simp] theorem Cpu.set_ime (u : Cpu) (r : Reg) (v : Byte) : (u.set r v).ime = u.ime := by cases r <;> rfl
@[simp] theorem Cpu.set_eiPending (u : Cpu) (r : Reg) (v : Byte) : (u.set r v).eiPending = u.eiPending := by cases r <;> rfl
@[simp] theorem Cpu.set_enableAfter (u : Cpu) (r : Reg) (v : Byte) : (u.set r v).enableAfter = u.enableAfter := by cases r <;> rfl

theorem wordOf_toNat (hi lo : Byte) : (wordOf hi lo).toNat = hi.toNat * 256 + lo.toNat := by
  have h : (wordOf hi lo).toNat = hi.toNat <<< 8 ||| lo.toNat := BitVec.toNat_append hi lo
  rw [h, ← Nat.shiftLeft_add_eq_or_of_lt lo.isLt, Nat.shiftLeft_eq]

theorem hiByte_toNat (v : Word) : (hiByte v).toNat = v.toNat / 256 := by
  have := v.isLt
  simp only [hiByte, BitVec.extractLsb'_toNat, Nat.shiftRight_eq_div_pow]
  omega

theorem loByte_toNat (v : Word) : (loByte v).toNat = v.toNat % 256 := by
  simp [loByte, BitVec.extractLsb'_toNat]

@[simp] theorem hiByte_wordOf (hi lo : Byte) : hiByte (wordOf hi lo) = hi := by
  apply BitVec.eq_of_toNat_eq
  rw [hiByte_toNat, wordOf_toNat]
  have := lo.isLt
  omega

@[simp] theorem loByte_wordOf (hi lo : Byte) : loByte (wordOf hi lo) = lo := by
  apply BitVec.eq_of_toNat_eq
  rw [loByte_toNat, wordOf_toNat]
  have := lo.isLt
  omega

@[simp] theorem wordOf_bytes (v : Word) : wordOf (hiByte v) (loByte v) = v := by
  apply BitVec.eq_of_toNat_eq
  rw [wordOf_toNat, hiByte_toNat, loByte_toNat]
  omega
@[simp] theorem Cpu.pair_setPair (u : Cpu) (p : Pair) (v : Word) : (u.setPair p v).pair p = v := by
  cases p <;> exact wordOf_bytes v

@[simp] theorem Cpu.setPair_flags (u : Cpu) (p : Pair) (v : Word) : (u.setPair p v).flags = u.flags := by cases p <;> rfl
@[simp] theorem Cpu.setPair_sp (u : Cpu) (p : Pair) (v : Word) : (u.setPair p v).sp = u.sp := by cases p <;> rfl
@[simp] theorem Cpu.setPair_pc (u : Cpu) (p : Pair) (v : Word) : (u.setPair p v).pc = u.pc := by cases p <;> rfl
@[simp] theorem Cpu.setPair_halted (u : Cpu) (p : Pair) (v : Word) : (u.setPair p v).halted = u.halted := by cases p <;> rfl
@[simp] theorem Cpu.setPair_ime (u : Cpu) (p : Pair) (v : Word) : (u.setPair p v).ime = u.ime := by cases p <;> rfl
@[simp] theorem Cpu.setPair_eiPending (u : Cpu) (p : Pair) (v : Word) : (u.setPair p v).eiPending = u.eiPending := by cases p <;> rfl
@[simp] theorem Cpu.setPair_enableAfter (u : Cpu) (p : Pair) (v : Word) : (u.setPair p v).enableAfter = u.enableAfter := by cases p <;> rfl

/-! ### The updates of the state -/

@[simp] theorem State.setReg_bus (s : State) (r : Reg) (v : Byte) : (s.setReg r v).bus = s.bus := rfl
@[simp] theorem State.setReg_cart (s : State) (r : Reg) (v : Byte) : (s.setReg r v).cart = s.cart := rfl
@[simp] theorem State.setReg_params (s : State) (r : Reg) (v : Byte) : (s.setReg r v).params = s.params := rfl
@[simp] theorem State.setReg_ports (s : State) (r : Reg) (v : Byte) : (s.setReg r v).ports = s.ports := rfl
@[simp] theorem State.setReg_flags (s : State) (r : Reg) (v : Byte) : (s.setReg r v).cpu.flags = s.cpu.flags := Cpu.set_flags _ _ _
@[simp] theorem State.setReg_sp (s : State) (r : Reg) (v : Byte) : (s.setReg r v).cpu.sp = s.cpu.sp := Cpu.set_sp _ _ _
@[simp] theorem State.setReg_pc (s : State) (r : Reg) (v : Byte) : (s.setReg r v).cpu.pc = s.cpu.pc := Cpu.set_pc _ _ _
@[simp] theorem State.setReg_halted (s : State) (r : Reg) (v : Byte) : (s.setReg r v).cpu.halted = s.cpu.halted := Cpu.set_halted _ _ _
@[simp] theorem State.setReg_ime (s : State) (r : Reg) (v : Byte) : (s.setReg r v).cpu.ime = s.cpu.ime := Cpu.set_ime _ _ _
@[simp] theorem State.setReg_eiPending (s : State) (r : Reg) (v : Byte) : (s.setReg r v).cpu.eiPending = s.cpu.eiPending := Cpu.set_eiPending _ _ _
@[simp] theorem State.setReg_enableAfter (s : State) (r : Reg) (v : Byte) : (s.setReg r v).cpu.enableAfter = s.cpu.enableAfter := Cpu.set_enableAfter _ _ _
theorem State.setReg_get (s : State) (r q : Reg) (v : Byte) :
    (s.setReg r v).cpu.get q = if q = r then v else s.cpu.get q := Cpu.get_set _ _ _ _
@[simp] theorem State.setPair_bus (s : State) (p : Pair) (v : Word) : (s.setPair p v).bus = s.bus := rfl
@[simp] theorem State.setPair_cart (s : State) (p : Pair) (v : Word) : (s.setPair p v).cart = s.cart := rfl
@[simp] theorem State.setPair_params (s : State) (p : Pair) (v : Word) : (s.setPair p v).params = s.params := rfl
@[simp] theorem State.setPair_ports (s : State) (p : Pair) (v : Word) : (s.setPair p v).ports = s.ports := rfl
@[simp] theorem State.setPair_flags (s : State) (p : Pair) (v : Word) : (s.setPair p v).cpu.flags = s.cpu.flags := Cpu.setPair_flags _ _ _
@[simp] theorem State.setPair_sp (s : State) (p : Pair) (v : Word) : (s.setPair p v).cpu.sp = s.cpu.sp := Cpu.setPair_sp _ _ _
@[simp] theorem State.setPair_pc (s : State) (p : Pair) (v : Word) : (s.setPair p v).cpu.pc = s.cpu.pc := Cpu.setPair_pc _ _ _
@[simp] theorem State.setPair_halted (s : State) (p : Pair) (v : Word) : (s.setPair p v).cpu.halted = s.cpu.halted := Cpu.setPair_halted _ _ _
@[simp] theorem State.setPair_ime (s : State) (p : Pair) (v : Word) : (s.setPair p v).cpu.ime = s.cpu.ime := Cpu.setPair_ime _ _ _
@[simp] theorem State.setPair_eiPending (s : State) (p : Pair) (v : Word) : (s.setPair p v).cpu.eiPending = s.cpu.eiPending := Cpu.setPair_eiPending _ _ _
@[simp] theorem State.setPair_enableAfter (s : State) (p : Pair) (v : Word) : (s.setPair p v).cpu.enableAfter = s.cpu.enableAfter := Cpu.setPair_enableAfter _ _ _
@[simp] theorem State.setPair_pair (s : State) (p : Pair) (v : Word) : (s.setPair p v).cpu.pair p = v :=
  Cpu.pair_setPair _ _ _
@[simp] theorem State.setFlags_bus (s : State) (f : Flags) : (s.setFlags f).bus = s.bus := rfl
@[simp] theorem State.setFlags_cart (s : State) (f : Flags) : (s.setFlags f).cart = s.cart := rfl
@[simp] theorem State.setFlags_params (s : State) (f : Flags) : (s.setFlags f).params = s.params := rfl
@[simp] theorem State.setFlags_ports (s : State) (f : Flags) : (s.setFlags f).ports = s.ports := rfl
@[simp] theorem State.setFlags_flags (s : State) (f : Flags) : (s.setFlags f).cpu.flags = f := rfl
@[simp] theorem State.setFlags_sp (s : State) (f : Flags) : (s.setFlags f).cpu.sp = s.cpu.sp := rfl
@[simp] theorem State.setFlags_pc (s : State) (f : Flags) : (s.setFlags f).cpu.pc = s.cpu.pc := rfl
@[simp] theorem State.setFlags_halted (s : State) (f : Flags) : (s.setFlags f).cpu.halted = s.cpu.halted := rfl
@[simp] theorem State.setFlags_ime (s : State) (f : Flags) : (s.setFlags f).cpu.ime = s.cpu.ime := rfl
@[simp] theorem State.setFlags_eiPending (s : State) (f : Flags) : (s.setFlags f).cpu.eiPending = s.cpu.eiPending := rfl
@[simp] theorem State.setFlags_enableAfter (s : State) (f : Flags) : (s.setFlags f).cpu.enableAfter = s.cpu.enableAfter := rfl
@[simp] theorem State.setFlags_get (s : State) (f : Flags) (q : Reg) : (s.setFlags f).cpu.get q = s.cpu.get q := by cases q <;> rfl
@[simp] theorem State.setSp_bus (s : State) (v : Word) : (s.setSp v).bus = s.bus := rfl
@[simp] theorem State.setSp_cart (s : State) (v : Word) : (s.setSp v).cart = s.cart := rfl
@[simp] theorem State.setSp_params (s : State) (v : Word) : (s.setSp v).params = s.params := rfl
@[simp] theorem State.setSp_ports (s : State) (v : Word) : (s.setSp v).ports = s.ports := rfl
@[simp] theorem State.setSp_flags (s : State) (v : Word) : (s.setSp v).cpu.flags = s.cpu.flags := rfl
@[simp] theorem State.setSp_sp (s : State) (v : Word) : (s.setSp v).cpu.sp = v := rfl
@[simp] theorem State.setSp_pc (s : State) (v : Word) : (s.setSp v).cpu.pc = s.cpu.pc := rfl
@[simp] theorem State.setSp_halted (s : State) (v : Word) : (s.setSp v).cpu.halted = s.cpu.halted := rfl
@[simp] theorem State.setSp_ime (s : State) (v : Word) : (s.setSp v).cpu.ime = s.cpu.ime := rfl
@[simp] theorem State.setSp_eiPending (s : State) (v : Word) : (s.setSp v).cpu.eiPending = s.cpu.eiPending := rfl
@[simp] theorem State.setSp_enableAfter (s : State) (v : Word) : (s.setSp v).cpu.enableAfter = s.cpu.enableAfter := rfl
@[simp] theorem State.setSp_get (s : State) (v : Word) (q : Reg) : (s.setSp v).cpu.get q = s.cpu.get q := by cases q <;> rfl
@[simp] theorem State.setPc_bus (s : State) (v : Word) : (s.setPc v).bus = s.bus := rfl
@[simp] theorem State.setPc_cart (s : State) (v : Word) : (s.setPc v).cart = s.cart := rfl
@[simp] theorem State.setPc_params (s : State) (v : Word) : (s.setPc v).params = s.params := rfl
@[simp] theorem State.setPc_ports (s : State) (v : Word) : (s.setPc v).ports = s.ports := rfl
@[simp] theorem State.setPc_flags (s : State) (v : Word) : (s.setPc v).cpu.flags = s.cpu.flags := rfl
@[simp] theorem State.setPc_sp (s : State) (v : Word) : (s.setPc v).cpu.sp = s.cpu.sp := rfl
@[simp] theorem State.setPc_pc (s : State) (v : Word) : (s.setPc v).cpu.pc = v := rfl
@[simp] theorem State.setPc_halted (s : State) (v : Word) : (s.setPc v).cpu.halted = s.cpu.halted := rfl
@[simp] theorem State.setPc_ime (s : State) (v : Word) : (s.setPc v).cpu.ime = s.cpu.ime := rfl
@[simp] theorem State.setPc_eiPending (s : State) (v : Word) : (s.setPc v).cpu.eiPending = s.cpu.eiPending := rfl
@[simp] theorem State.setPc_enableAfter (s : State) (v : Word) : (s.setPc v).cpu.enableAfter = s.cpu.enableAfter := rfl
@[simp] theorem State.setPc_get (s : State) (v : Word) (q : Reg) : (s.setPc v).cpu.get q = s.cpu.get q := by cases q <;> rfl
@[simp] theorem State.setHalted_bus (s : State) (x : Bool) : (s.setHalted x).bus = s.bus := rfl
@[simp] theorem State.setHalted_cart (s : State) (x : Bool) : (s.setHalted x).cart = s.cart := rfl
@[simp] theorem State.setHalted_params (s : State) (x : Bool) : (s.setHalted x).params = s.params := rfl
@[simp] theorem State.setHalted_ports (s : State) (x : Bool) : (s.setHalted x).ports = s.ports := rfl
@[simp] theorem State.setHalted_flags (s : State) (x : Bool) : (s.setHalted x).cpu.flags = s.cpu.flags := rfl
@[simp] theorem State.setHalted_sp (s : State) (x : Bool) : (s.setHalted x).cpu.sp = s.cpu.sp := rfl
@[simp] theorem State.setHalted_pc (s : State) (x : Bool) : (s.setHalted x).cpu.pc = s.cpu.pc := rfl
@[simp] theorem State.setHalted_halted (s : State) (x : Bool) : (s.setHalted x).cpu.halted = x := rfl
@[simp] theorem State.setHalted_ime (s : State) (x : Bool) : (s.setHalted x).cpu.ime = s.cpu.ime := rfl
@[simp] theorem State.setHalted_eiPending (s : State) (x : Bool) : (s.setHalted x).cpu.eiPending = s.cpu.eiPending := rfl
@[simp] theorem State.setHalted_enableAfter (s : State) (x : Bool) : (s.setHalted x).cpu.enableAfter = s.cpu.enableAfter := rfl
@[simp] theorem State.setHalted_get (s : State) (x : Bool) (q : Reg) : (s.setHalted x).cpu.get q = s.cpu.get q := by cases q <;> rfl
@[simp] theorem State.setIme_bus (s : State) (x : Bool) : (s.setIme x).bus = s.bus := rfl
@[simp] theorem State.setIme_cart (s : State) (x : Bool) : (s.setIme x).cart = s.cart := rfl
@[simp] theorem State.setIme_params (s : State) (x : Bool) : (s.setIme x).params = s.params := rfl
@[simp] theorem State.setIme_ports (s : State) (x : Bool) : (s.setIme x).ports = s.ports := rfl
@[simp] theorem State.setIme_flags (s : State) (x : Bool) : (s.setIme x).cpu.flags = s.cpu.flags := rfl
@[simp] theorem State.setIme_sp (s : State) (x : Bool) : (s.setIme x).cpu.sp = s.cpu.sp := rfl
@[simp] theorem State.setIme_pc (s : State) (x : Bool) : (s.setIme x).cpu.pc = s.cpu.pc := rfl
@[simp] theorem State.setIme_halted (s : State) (x : Bool) : (s.setIme x).cpu.halted = s.cpu.halted := rfl
@[simp] theorem State.setIme_ime (s : State) (x : Bool) : (s.setIme x).cpu.ime = x := rfl
@[simp] theorem State.setIme_eiPending (s : State) (x : Bool) : (s.setIme x).cpu.eiPending = s.cpu.eiPending := rfl
@[simp] theorem State.setIme_enableAfter (s : State) (x : Bool) : (s.setIme x).cpu.enableAfter = s.cpu.enableAfter := rfl
@[simp] theorem State.setIme_get (s : State) (x : Bool) (q : Reg) : (s.setIme x).cpu.get q = s.cpu.get q := by cases q <;> rfl
@[simp] theorem State.setEiPending_bus (s : State) (x : Bool) : (s.setEiPending x).bus = s.bus := rfl
@[simp] theorem State.setEiPending_cart (s : State) (x : Bool) : (s.setEiPending x).cart = s.cart := rfl
@[simp] theorem State.setEiPending_params (s : State) (x : Bool) : (s.setEiPending x).params = s.params := rfl
@[simp] theorem State.setEiPending_ports (s : State) (x : Bool) : (s.setEiPending x).ports = s.ports := rfl
@[simp] theorem State.setEiPending_flags (s : State) (x : Bool) : (s.setEiPending x).cpu.flags = s.cpu.flags := rfl
@[simp] theorem State.setEiPending_sp (s : State) (x : Bool) : (s.setEiPending x).cpu.sp = s.cpu.sp := rfl
@[simp] theorem State.setEiPending_pc (s : State) (x : Bool) : (s.setEiPending x).cpu.pc = s.cpu.pc := rfl
@[simp] theorem State.setEiPending_halted (s : State) (x : Bool) : (s.setEiPending x).cpu.halted = s.cpu.halted := rfl
@[simp] theorem State.setEiPending_ime (s : State) (x : Bool) : (s.setEiPending x).cpu.ime = s.cpu.ime := rfl
@[simp] theorem State.setEiPending_eiPending (s : State) (x : Bool) : (s.setEiPending x).cpu.eiPending = x := rfl
@[simp] theorem State.setEiPending_enableAfter (s : State) (x : Bool) : (s.setEiPending x).cpu.enableAfter = s.cpu.enableAfter := rfl
@[simp] theorem State.setEiPending_get (s : State) (x : Bool) (q : Reg) : (s.setEiPending x).cpu.get q = s.cpu.get q := by cases q <;> rfl
@[simp] theorem State.setEnableAfter_bus (s : State) (x : Bool) : (s.setEnableAfter x).bus = s.bus := rfl
@[simp] theorem State.setEnableAfter_cart (s : State) (x : Bool) : (s.setEnableAfter x).cart = s.cart := rfl
@[simp] theorem State.setEnableAfter_params (s : State) (x : Bool) : (s.setEnableAfter x).params = s.params := rfl
@[simp] theorem State.setEnableAfter_ports (s : State) (x : Bool) : (s.setEnableAfter x).ports = s.ports := rfl
@[simp] theorem State.setEnableAfter_flags (s : State) (x : Bool) : (s.setEnableAfter x).cpu.flags = s.cpu.flags := rfl
@[simp] theorem State.setEnableAfter_sp (s : State) (x : Bool) : (s.setEnableAfter x).cpu.sp = s.cpu.sp := rfl
@[simp] theorem State.setEnableAfter_pc (s : State) (x : Bool) : (s.setEnableAfter x).cpu.pc = s.cpu.pc := rfl
@[simp] theorem State.setEnableAfter_halted (s : State) (x : Bool) : (s.setEnableAfter x).cpu.halted = s.cpu.halted := rfl
@[simp] theorem State.setEnableAfter_ime (s : State) (x : Bool) : (s.setEnableAfter x).cpu.ime = s.cpu.ime := rfl
@[simp] theorem State.setEnableAfter_eiPending (s : State) (x : Bool) : (s.setEnableAfter x).cpu.eiPending = s.cpu.eiPending := rfl
@[simp] theorem State.setEnableAfter_enableAfter (s : State) (x : Bool) : (s.setEnableAfter x).cpu.enableAfter = x := rfl
@[simp] theorem State.setEnableAfter_get (s : State) (x : Bool) (q : Reg) : (s.setEnableAfter x).cpu.get q = s.cpu.get q := by cases q <;> rfl
@[simp] theorem State.setIflag_cpu (s : State) (v : BitVec 5) : (s.setIflag v).cpu = s.cpu := rfl
@[simp] theorem State.setIflag_cart (s : State) (v : BitVec 5) : (s.setIflag v).cart = s.cart := rfl
@[simp] theorem State.setIflag_params (s : State) (v : BitVec 5) : (s.setIflag v).params = s.params := rfl
@[simp] theorem State.setIflag_ports (s : State) (v : BitVec 5) : (s.setIflag v).ports = s.ports := rfl
@[simp] theorem State.setCycles_cpu (s : State) (n : Nat) : (s.setCycles n).cpu = s.cpu := rfl
@[simp] theorem State.setCycles_bus (s : State) (n : Nat) : (s.setCycles n).bus = s.bus := rfl
@[simp] theorem State.setCycles_cart (s : State) (n : Nat) : (s.setCycles n).cart = s.cart := rfl
@[simp] theorem State.setCycles_params (s : State) (n : Nat) : (s.setCycles n).params = s.params := rfl
@[simp] theorem State.setIflag_wram (s : State) (v : BitVec 5) : (s.setIflag v).bus.wram = s.bus.wram := rfl
@[simp] theorem State.setIflag_hram (s : State) (v : BitVec 5) : (s.setIflag v).bus.hram = s.bus.hram := rfl
@[simp] theorem State.setIflag_ie (s : State) (v : BitVec 5) : (s.setIflag v).bus.ie = s.bus.ie := rfl
@[simp] theorem State.setIflag_bootActive (s : State) (v : BitVec 5) : (s.setIflag v).bus.bootActive = s.bus.bootActive := rfl
@[simp] theorem State.setIflag_p1Select (s : State) (v : BitVec 5) : (s.setIflag v).bus.p1Select = s.bus.p1Select := rfl
@[simp] theorem State.setIflag_iflag (s : State) (v : BitVec 5) : (s.setIflag v).bus.iflag = v := rfl
@[simp] theorem State.setCycles_inputs (s : State) (n : Nat) : (s.setCycles n).ports.inputs = s.ports.inputs := rfl
@[simp] theorem State.setCycles_bytes (s : State) (n : Nat) : (s.setCycles n).ports.bytes = s.ports.bytes := rfl
@[simp] theorem State.setCycles_draws (s : State) (n : Nat) : (s.setCycles n).ports.draws = s.ports.draws := rfl
@[simp] theorem State.setCycles_input (s : State) (n : Nat) : (s.setCycles n).ports.input = s.ports.input := rfl
@[simp] theorem State.setCycles_ext (s : State) (n : Nat) : (s.setCycles n).ports.ext = s.ports.ext := rfl
@[simp] theorem State.setCycles_cycles (s : State) (n : Nat) : (s.setCycles n).ports.cycles = n := rfl
@[simp] theorem State.setCycles_surcharge (s : State) (n : Nat) : (s.setCycles n).ports.surcharge = s.ports.surcharge := rfl
@[simp] theorem State.setSurcharge_cpu (s : State) (n : Nat) : (s.setSurcharge n).cpu = s.cpu := rfl
@[simp] theorem State.setSurcharge_bus (s : State) (n : Nat) : (s.setSurcharge n).bus = s.bus := rfl
@[simp] theorem State.setSurcharge_cart (s : State) (n : Nat) : (s.setSurcharge n).cart = s.cart := rfl
@[simp] theorem State.setSurcharge_params (s : State) (n : Nat) : (s.setSurcharge n).params = s.params := rfl
@[simp] theorem State.setSurcharge_inputs (s : State) (n : Nat) : (s.setSurcharge n).ports.inputs = s.ports.inputs := rfl
@[simp] theorem State.setSurcharge_bytes (s : State) (n : Nat) : (s.setSurcharge n).ports.bytes = s.ports.bytes := rfl
@[simp] theorem State.setSurcharge_draws (s : State) (n : Nat) : (s.setSurcharge n).ports.draws = s.ports.draws := rfl
@[simp] theorem State.setSurcharge_input (s : State) (n : Nat) : (s.setSurcharge n).ports.input = s.ports.input := rfl
@[simp] theorem State.setSurcharge_ext (s : State) (n : Nat) : (s.setSurcharge n).ports.ext = s.ports.ext := rfl
@[simp] theorem State.setSurcharge_cycles (s : State) (n : Nat) : (s.setSurcharge n).ports.cycles = s.ports.cycles := rfl
@[simp] theorem State.setSurcharge_surcharge (s : State) (n : Nat) : (s.setSurcharge n).ports.surcharge = n := rfl
@[simp] theorem State.report_cpu (s : State) (x : ExtAccess) : (s.report x).cpu = s.cpu := rfl
@[simp] theorem State.report_bus (s : State) (x : ExtAccess) : (s.report x).bus = s.bus := rfl
@[simp] theorem State.report_cart (s : State) (x : ExtAccess) : (s.report x).cart = s.cart := rfl
@[simp] theorem State.report_params (s : State) (x : ExtAccess) : (s.report x).params = s.params := rfl
@[simp] theorem State.report_inputs (s : State) (x : ExtAccess) : (s.report x).ports.inputs = s.ports.inputs := rfl
@[simp] theorem State.report_bytes (s : State) (x : ExtAccess) : (s.report x).ports.bytes = s.ports.bytes := rfl
@[simp] theorem State.report_draws (s : State) (x : ExtAccess) : (s.report x).ports.draws = s.ports.draws := rfl
@[simp] theorem State.report_input (s : State) (x : ExtAccess) : (s.report x).ports.input = s.ports.input := rfl
@[simp] theorem State.report_cycles (s : State) (x : ExtAccess) : (s.report x).ports.cycles = s.ports.cycles := rfl
@[simp] theorem State.report_surcharge (s : State) (x : ExtAccess) : (s.report x).ports.surcharge = s.ports.surcharge := rfl
@[simp] theorem State.report_ext (s : State) (x : ExtAccess) : (s.report x).ports.ext = s.ports.ext ++ [x] := rfl

end Sys2Proof.Machine
end

