-- ==== Sys2Proof/Laws/Ops.lean ====
section
/-!
SUPPORT. What each shared operation of Machine/Ops.lean, Machine/Operands.lean and Machine/Engine.lean can do, said once.
-/

namespace Sys2Proof.Machine

/-! ### The router -/

/-- The addresses of a region (20_memory R84). -/
def Region.spans (bootActive : Bool) (a : Nat) (r : Region) : Prop :=
  match r with
  | .boot => a ≤ 0xFF ∧ bootActive = true
  | .cartRom => a ≤ 0x7FFF
  | .cartRam => 0xA000 ≤ a ∧ a ≤ 0xBFFF
  | .wram => 0xC000 ≤ a ∧ a ≤ 0xDFFF
  | .echo => 0xE000 ≤ a ∧ a ≤ 0xFDFF
  | .p1 => a = 0xFF00
  | .ifReg => a = 0xFF0F
  | .bootDisable => a = 0xFF50
  | .hram => 0xFF80 ≤ a ∧ a ≤ 0xFFFE
  | .ieReg => a = 0xFFFF
  | .external _ => True
theorem Region.ite_spans {b : Bool} {a : Nat} {c : Prop} [Decidable c] {x y : Region} (hx : c → x.spans b a) (hy : ¬ c → y.spans b a) :
    Region.spans b a (if c then x else y) := by
  split
  · exact hx ‹_›
  · exact hy ‹_›

/-- An address lies where its region does. -/
theorem route_spans {b : Bool} {x : Word} {r : Region} (h : route b x = r) : Region.spans b x.toNat r := by
  have hx := x.isLt
  rw [← h]
  unfold route
  generalize x.toNat = a at hx
  refine Region.ite_spans (fun h1 => Region.ite_spans (fun h2 => ⟨h1, h2⟩) fun _ => ?_) fun h1 => ?_
  · unfold Region.spans; omega
  refine Region.ite_spans (fun h2 => h2) fun h2 => ?_
  refine Region.ite_spans (fun h3 => True.intro) fun h3 => ?_
  refine Region.ite_spans (fun h4 => ?_) fun h4 => ?_
  · unfold Region.spans; omega
  refine Region.ite_spans (fun h5 => ?_) fun h5 => ?_
  · unfold Region.spans; omega
  refine Region.ite_spans (fun h6 => ?_) fun h6 => ?_
  · unfold Region.spans; omega
  refine Region.ite_spans (fun _ => True.intro) fun h7 => ?_
  refine Region.ite_spans (fun _ => True.intro) fun h8 => ?_
  refine Region.ite_spans (fun h => h) fun h9 => ?_
  refine Region.ite_spans (fun h => h) fun h10 => ?_
  refine Region.ite_spans (fun h => h) fun h11 => ?_
  refine Region.ite_spans (fun _ => True.intro) fun h12 => ?_
  refine Region.ite_spans (fun h13 => ?_) fun h13 => ?_
  · unfold Region.spans; omega
  · unfold Region.spans; omega

/-! ### Reads -/

/-- What a read gives depends on the bus, the cartridge, the configuration and the buttons alone. -/
theorem peek_congr {s t : State} (hb : t.bus = s.bus) (hc : t.cart = s.cart) (hp : t.params = s.params)
    (hi : t.ports.input = s.ports.input) (addr : Word) : peek addr t = peek addr s := by
  simp only [peek, hb, hc, hp, hi]

/-- Drawing a byte changes only the script and the draw counter. -/
theorem drawByte_frame (s : State) : (drawByte s).2.cpu = s.cpu ∧ (drawByte s).2.bus = s.bus ∧ (drawByte s).2.cart = s.cart ∧
    (drawByte s).2.params = s.params ∧ (drawByte s).2.ports.input = s.ports.input ∧
    (drawByte s).2.ports.inputs = s.ports.inputs ∧
    (drawByte s).2.ports.cycles = s.ports.cycles ∧ (drawByte s).2.ports.surcharge = s.ports.surcharge := by
  unfold drawByte
  split <;> exact ⟨rfl, rfl, rfl, rfl, rfl, rfl, rfl, rfl⟩

/-- A read of an address the block answers gives the byte and changes nothing (20_memory R94). -/
theorem memRead_of_peek {addr : Word} {s : State} {v : Byte} (h : peek addr s = some v) : memRead addr s = (v, s) := by
  simp [memRead, h]

/-- A read changes nothing but the ports. -/
theorem memRead_frame (addr : Word) (s : State) : (memRead addr s).2.cpu = s.cpu ∧ (memRead addr s).2.bus = s.bus ∧
    (memRead addr s).2.cart = s.cart ∧ (memRead addr s).2.params = s.params ∧
    (memRead addr s).2.ports.input = s.ports.input ∧ (memRead addr s).2.ports.inputs = s.ports.inputs ∧
    (memRead addr s).2.ports.cycles = s.ports.cycles ∧ (memRead addr s).2.ports.surcharge = s.ports.surcharge := by
  unfold memRead
  split
  · exact ⟨rfl, rfl, rfl, rfl, rfl, rfl, rfl, rfl⟩
  · split
    · exact drawByte_frame _
    · exact drawByte_frame _

@[simp] theorem memRead_cpu (addr : Word) (s : State) : (memRead addr s).2.cpu = s.cpu := (memRead_frame addr s).1
@[simp] theorem memRead_bus (addr : Word) (s : State) : (memRead addr s).2.bus = s.bus := (memRead_frame addr s).2.1
@[simp] theorem memRead_cart (addr : Word) (s : State) : (memRead addr s).2.cart = s.cart := (memRead_frame addr s).2.2.1
@[simp] theorem memRead_params (addr : Word) (s : State) : (memRead addr s).2.params = s.params := (memRead_frame addr s).2.2.2.1
@[simp] theorem memRead_input (addr : Word) (s : State) : (memRead addr s).2.ports.input = s.ports.input :=
  (memRead_frame addr s).2.2.2.2.1
@[simp] theorem memRead_inputs (addr : Word) (s : State) : (memRead addr s).2.ports.inputs = s.ports.inputs :=
  (memRead_frame addr s).2.2.2.2.2.1
@[simp] theorem memRead_cycles (addr : Word) (s : State) : (memRead addr s).2.ports.cycles = s.ports.cycles :=
  (memRead_frame addr s).2.2.2.2.2.2.1
@[simp] theorem memRead_surcharge (addr : Word) (s : State) : (memRead addr s).2.ports.surcharge = s.ports.surcharge :=
  (memRead_frame addr s).2.2.2.2.2.2.2
@[simp] theorem memRead_hl (addr : Word) (s : State) : (memRead addr s).2.hl = s.hl := by
  simp only [State.hl, memRead_cpu]

@[simp] theorem peek_memRead (x addr : Word) (s : State) : peek x (memRead addr s).2 = peek x s :=
  peek_congr (memRead_bus addr s) (memRead_cart addr s) (memRead_params addr s) (memRead_input addr s) x

/-! ### Writes -/

/-- A write changes the bus, the cartridge and the report of external accesses, nothing else. -/
theorem memWrite_frame (addr : Word) (v : Byte) (s : State) : (memWrite addr v s).cpu = s.cpu ∧
    (memWrite addr v s).params = s.params ∧ (memWrite addr v s).ports.input = s.ports.input ∧
    (memWrite addr v s).ports.inputs = s.ports.inputs ∧ (memWrite addr v s).ports.bytes = s.ports.bytes ∧
    (memWrite addr v s).ports.draws = s.ports.draws ∧ (memWrite addr v s).ports.cycles = s.ports.cycles ∧
    (memWrite addr v s).ports.surcharge = s.ports.surcharge := by
  unfold memWrite
  split <;> exact ⟨rfl, rfl, rfl, rfl, rfl, rfl, rfl, rfl⟩

@[simp] theorem memWrite_cpu (addr : Word) (v : Byte) (s : State) : (memWrite addr v s).cpu = s.cpu := (memWrite_frame addr v s).1
@[simp] theorem memWrite_params (addr : Word) (v : Byte) (s : State) : (memWrite addr v s).params = s.params :=
  (memWrite_frame addr v s).2.1
@[simp] theorem memWrite_input (addr : Word) (v : Byte) (s : State) : (memWrite addr v s).ports.input = s.ports.input :=
  (memWrite_frame addr v s).2.2.1
@[simp] theorem memWrite_inputs (addr : Word) (v : Byte) (s : State) : (memWrite addr v s).ports.inputs = s.ports.inputs :=
  (memWrite_frame addr v s).2.2.2.1
@[simp] theorem memWrite_cycles (addr : Word) (v : Byte) (s : State) : (memWrite addr v s).ports.cycles = s.ports.cycles :=
  (memWrite_frame addr v s).2.2.2.2.2.2.1
@[simp] theorem memWrite_surcharge (addr : Word) (v : Byte) (s : State) : (memWrite addr v s).ports.surcharge = s.ports.surcharge :=
  (memWrite_frame addr v s).2.2.2.2.2.2.2
@[simp] theorem memWrite_hl (addr : Word) (v : Byte) (s : State) : (memWrite addr v s).hl = s.hl := by
  simp only [State.hl, memWrite_cpu]

/-- A write does not look at the CPU. -/
theorem memWrite_withCpu (addr : Word) (v : Byte) (s : State) (u : Cpu) :
    memWrite addr v { s with cpu := u } = { memWrite addr v s with cpu := u } := by
  unfold memWrite
  simp only
  split <;> rfl

theorem memWrite_setSp (addr : Word) (v : Byte) (s : State) (x : Word) :
    memWrite addr v (s.setSp x) = (memWrite addr v s).setSp x := by
  simp only [State.setSp, memWrite_withCpu, memWrite_cpu]

theorem memWrite_setPc (addr : Word) (v : Byte) (s : State) (x : Word) :
    memWrite addr v (s.setPc x) = (memWrite addr v s).setPc x := by
  simp only [State.setPc, memWrite_withCpu, memWrite_cpu]

theorem memWrite_setFlags (addr : Word) (v : Byte) (s : State) (x : Flags) :
    memWrite addr v (s.setFlags x) = (memWrite addr v s).setFlags x := by
  simp only [State.setFlags, memWrite_withCpu, memWrite_cpu]

theorem memWrite_setIme (addr : Word) (v : Byte) (s : State) (x : Bool) :
    memWrite addr v (s.setIme x) = (memWrite addr v s).setIme x := by
  simp only [State.setIme, memWrite_withCpu, memWrite_cpu]

/-! ### The stack -/

/-- `Push16`: the high byte at SP - 1, then the low byte at SP - 2, and SP is two lower (20_memory R91). -/
theorem push16_eq (v : Word) (s : State) : push16 v s =
    (memWrite (s.cpu.sp - 2#16) (loByte v) (memWrite (s.cpu.sp - 1#16) (hiByte v) s)).setSp (s.cpu.sp - 2#16) := by
  have h : s.cpu.sp - 1#16 - 1#16 = s.cpu.sp - 2#16 := by rw [BitVec.sub_sub]; rfl
  simp only [push16, State.setSp_sp, memWrite_setSp, h]
  simp only [State.setSp, memWrite_cpu]

/-- Reading does not look at SP. -/
theorem memRead_setSp (addr : Word) (s : State) (x : Word) :
    memRead addr (s.setSp x) = ((memRead addr s).1, (memRead addr s).2.setSp x) := by
  have hp : peek addr (s.setSp x) = peek addr s := peek_congr rfl rfl rfl rfl addr
  have he : extAreaRead addr (s.setSp x) = extAreaRead addr s := rfl
  unfold memRead
  rw [hp, he]
  split
  · rfl
  · split
    · unfold drawByte State.report State.setSp
      simp only
      split <;> rfl
    · unfold drawByte State.setSp
      simp only
      split <;> rfl

/-- `Pop16`: the low byte at SP, then the high byte at SP + 1, and SP is two higher (20_memory R91). -/
theorem pop16_eq (s : State) : pop16 s =
    (wordOf (memRead (s.cpu.sp + 1#16) (memRead s.cpu.sp s).2).1 (memRead s.cpu.sp s).1,
      (memRead (s.cpu.sp + 1#16) (memRead s.cpu.sp s).2).2.setSp (s.cpu.sp + 2#16)) := by
  have h : s.cpu.sp + 1#16 + 1#16 = s.cpu.sp + 2#16 := by rw [BitVec.add_assoc]; rfl
  simp only [pop16, memRead_cpu, State.setSp_sp, memRead_setSp, h]
  rfl

@[simp] theorem push16_get (v : Word) (s : State) (r : Reg) : (push16 v s).cpu.get r = s.cpu.get r := by
  simp [push16_eq]

@[simp] theorem push16_pc (v : Word) (s : State) : (push16 v s).cpu.pc = s.cpu.pc := by simp [push16_eq]
@[simp] theorem push16_sp (v : Word) (s : State) : (push16 v s).cpu.sp = s.cpu.sp - 2#16 := by simp [push16_eq]
@[simp] theorem push16_flags (v : Word) (s : State) : (push16 v s).cpu.flags = s.cpu.flags := by simp [push16_eq]
@[simp] theorem push16_params (v : Word) (s : State) : (push16 v s).params = s.params := by simp [push16_eq]

/-- A pop changes SP and the ports, nothing else. -/
theorem pop16_frame (s : State) : (pop16 s).2.cpu = { s.cpu with sp := s.cpu.sp + 2#16 } ∧ (pop16 s).2.bus = s.bus ∧
    (pop16 s).2.cart = s.cart ∧ (pop16 s).2.params = s.params ∧ (pop16 s).2.ports.input = s.ports.input ∧
    (pop16 s).2.ports.inputs = s.ports.inputs ∧ (pop16 s).2.ports.surcharge = s.ports.surcharge := by
  simp [pop16_eq, State.setSp]

@[simp] theorem pop16_cpu (s : State) : (pop16 s).2.cpu = { s.cpu with sp := s.cpu.sp + 2#16 } := (pop16_frame s).1
@[simp] theorem pop16_bus (s : State) : (pop16 s).2.bus = s.bus := (pop16_frame s).2.1
@[simp] theorem pop16_cart (s : State) : (pop16 s).2.cart = s.cart := (pop16_frame s).2.2.1
@[simp] theorem pop16_params (s : State) : (pop16 s).2.params = s.params := (pop16_frame s).2.2.2.1
@[simp] theorem pop16_input (s : State) : (pop16 s).2.ports.input = s.ports.input := (pop16_frame s).2.2.2.2.1
@[simp] theorem pop16_inputs (s : State) : (pop16 s).2.ports.inputs = s.ports.inputs := (pop16_frame s).2.2.2.2.2.1
@[simp] theorem pop16_surcharge (s : State) : (pop16 s).2.ports.surcharge = s.ports.surcharge := (pop16_frame s).2.2.2.2.2.2

/-! ### Operands -/

/-- Reading an operand changes nothing but the ports. -/
theorem r8_frame (r : R8) (s : State) : (r8 r s).2.cpu = s.cpu ∧ (r8 r s).2.bus = s.bus ∧ (r8 r s).2.cart = s.cart ∧
    (r8 r s).2.params = s.params ∧ (r8 r s).2.ports.input = s.ports.input ∧ (r8 r s).2.ports.inputs = s.ports.inputs ∧
    (r8 r s).2.ports.surcharge = s.ports.surcharge := by
  cases r <;> simp [r8]

@[simp] theorem r8_reg (r : Reg) (s : State) : r8 (.reg r) s = (s.cpu.get r, s) := rfl
@[simp] theorem r8_ind (s : State) : r8 .ind s = memRead s.hl s := rfl
@[simp] theorem setR8_reg (r : Reg) (v : Byte) (s : State) : setR8 (.reg r) v s = s.setReg r v := rfl
@[simp] theorem setR8_ind (v : Byte) (s : State) : setR8 .ind v s = memWrite s.hl v s := rfl
@[simp] theorem r8_cpu (r : R8) (s : State) : (r8 r s).2.cpu = s.cpu := (r8_frame r s).1
@[simp] theorem r8_bus (r : R8) (s : State) : (r8 r s).2.bus = s.bus := (r8_frame r s).2.1
@[simp] theorem r8_cart (r : R8) (s : State) : (r8 r s).2.cart = s.cart := (r8_frame r s).2.2.1
@[simp] theorem r8_params (r : R8) (s : State) : (r8 r s).2.params = s.params := (r8_frame r s).2.2.2.1
@[simp] theorem r8_input (r : R8) (s : State) : (r8 r s).2.ports.input = s.ports.input := (r8_frame r s).2.2.2.2.1
@[simp] theorem r8_inputs (r : R8) (s : State) : (r8 r s).2.ports.inputs = s.ports.inputs := (r8_frame r s).2.2.2.2.2.1
@[simp] theorem r8_surcharge (r : R8) (s : State) : (r8 r s).2.ports.surcharge = s.ports.surcharge := (r8_frame r s).2.2.2.2.2.2

/-- A replacement of a register: the function's byte goes in it and its flags in the flags. -/
theorem modifyOperand_reg (f : Byte → Flags → Byte × Flags) (r : Reg) (s : State) : modifyOperand f (.reg r) s =
    (s.setReg r (f (s.cpu.get r) s.cpu.flags).1).setFlags (f (s.cpu.get r) s.cpu.flags).2 := rfl

/-- A replacement of the byte at HL: one read, one write at the same address, and the flags (20_memory R93). -/
theorem modifyOperand_ind (f : Byte → Flags → Byte × Flags) (s : State) : modifyOperand f .ind s =
    (memWrite s.hl (f (memRead s.hl s).1 s.cpu.flags).1 (memRead s.hl s).2).setFlags (f (memRead s.hl s).1 s.cpu.flags).2 := by
  simp [modifyOperand]

/-! ### The engine -/

/-- Taking an interrupt, in one expression (60_exceptions R405). -/
theorem enterInterrupt_eq (l : Line) (s : State) : enterInterrupt l s =
    ((((push16 s.cpu.pc (s.setIflag (s.bus.iflag &&& ~~~(1#5 <<< l.bit)))).setIme false).setPc l.vector).setSurcharge
      entrySurcharge) := by
  have h : ∀ t : State, push16 s.cpu.pc (t.setIme false) = (push16 s.cpu.pc t).setIme false := by
    intro t
    simp only [push16_eq, State.setIme_sp, memWrite_setIme]
    simp only [State.setIme, State.setSp]
  simp only [enterInterrupt, State.setIme_pc, State.setIflag_cpu, h]

/-- Taking the inputs changes only the ports. -/
theorem takeInput_frame (s : State) : (takeInput s).cpu = s.cpu ∧ (takeInput s).bus = s.bus ∧ (takeInput s).cart = s.cart ∧
    (takeInput s).params = s.params := by
  unfold takeInput
  split <;> exact ⟨rfl, rfl, rfl, rfl⟩

@[simp] theorem takeInput_cpu (s : State) : (takeInput s).cpu = s.cpu := (takeInput_frame s).1
@[simp] theorem takeInput_bus (s : State) : (takeInput s).bus = s.bus := (takeInput_frame s).2.1
@[simp] theorem takeInput_cart (s : State) : (takeInput s).cart = s.cart := (takeInput_frame s).2.2.1
@[simp] theorem takeInput_params (s : State) : (takeInput s).params = s.params := (takeInput_frame s).2.2.2

/-- Steps 1 and 2 read the pair of the bytes that are fetched (60_exceptions R401). -/
theorem readOpcode_pair (pc : Word) (s : State) : (readOpcode pc s).1 = opcodePair (fetchBytes pc s).1 := by
  unfold readOpcode fetchBytes
  simp only
  split
  · rename_i h
    have hb : bytesAfter prefixByte = 1 := rfl
    simp [h, hb, readBytes, opcodePair]
  · rename_i h
    cases readBytes (bytesAfter (memRead pc s).1) (pc + 1#16) (memRead pc s).2 with
    | mk bs t => cases bs <;> simp [opcodePair, h]

/-- Reading the opcode changes nothing but the draws and the report: the inputs and the costs stay. -/
theorem readOpcode_frame (pc : Word) (s : State) : (readOpcode pc s).2.ports.input = s.ports.input ∧
    (readOpcode pc s).2.ports.inputs = s.ports.inputs ∧ (readOpcode pc s).2.ports.cycles = s.ports.cycles ∧
    (readOpcode pc s).2.ports.surcharge = s.ports.surcharge := by
  unfold readOpcode
  simp only
  split <;> simp

/-- A step starts with no surcharge. -/
@[simp] theorem takeInput_surcharge (s : State) : (takeInput s).ports.surcharge = 0 := by
  unfold takeInput
  split <;> rfl

/-- Reading bytes changes nothing but the ports. -/
theorem readBytes_frame (k : Nat) (addr : Word) (s : State) : (readBytes k addr s).2.cpu = s.cpu ∧
    (readBytes k addr s).2.bus = s.bus ∧ (readBytes k addr s).2.cart = s.cart ∧ (readBytes k addr s).2.params = s.params ∧
    (readBytes k addr s).2.ports.input = s.ports.input ∧ (readBytes k addr s).2.ports.inputs = s.ports.inputs ∧
    (readBytes k addr s).2.ports.surcharge = s.ports.surcharge := by
  induction k generalizing addr s with
  | zero => exact ⟨rfl, rfl, rfl, rfl, rfl, rfl, rfl⟩
  | succ k ih =>
    have h := ih (addr + 1#16) (memRead addr s).2
    simpa [readBytes] using h

/-- Fetching changes nothing but the ports. -/
theorem fetchBytes_frame (pc : Word) (s : State) : (fetchBytes pc s).2.cpu = s.cpu ∧ (fetchBytes pc s).2.bus = s.bus ∧
    (fetchBytes pc s).2.cart = s.cart ∧ (fetchBytes pc s).2.params = s.params ∧
    (fetchBytes pc s).2.ports.input = s.ports.input ∧ (fetchBytes pc s).2.ports.inputs = s.ports.inputs ∧
    (fetchBytes pc s).2.ports.surcharge = s.ports.surcharge := by
  have h := readBytes_frame (bytesAfter (memRead pc s).1) (pc + 1#16) (memRead pc s).2
  simpa [fetchBytes] using h

/-- Everything `nextInstr` can answer: HALT with nothing read, or what the fetched bytes decode to. -/
theorem nextInstr_ok {s t : State} {i : Instr} (h : nextInstr s = .ok (i, t)) :
    (s.cpu.halted = true ∧ i = .halt ∧ t = s) ∨
    (s.cpu.halted = false ∧ t = (fetchBytes s.cpu.pc s).2 ∧ ∃ rest, decode (fetchBytes s.cpu.pc s).1 = .ok (i, rest)) := by
  unfold nextInstr at h
  split at h
  · rename_i hh
    cases h
    exact .inl ⟨hh, rfl, rfl⟩
  · rename_i hh
    refine .inr ⟨by simpa using hh, ?_⟩
    simp only [fetch] at h
    split at h
    · cases h
    · split at h
      · rename_i j rest hd
        cases h
        exact ⟨rfl, rest, hd⟩
      · cases h

/-- The fetch of a next instruction changes nothing but the ports. -/
theorem nextInstr_frame {s t : State} {i : Instr} (h : nextInstr s = .ok (i, t)) : t.cpu = s.cpu ∧ t.bus = s.bus ∧
    t.cart = s.cart ∧ t.params = s.params ∧ t.ports.input = s.ports.input ∧ t.ports.inputs = s.ports.inputs ∧
    t.ports.surcharge = s.ports.surcharge := by
  rcases nextInstr_ok h with ⟨_, _, rfl⟩ | ⟨_, rfl, _⟩
  · exact ⟨rfl, rfl, rfl, rfl, rfl, rfl, rfl⟩
  · exact fetchBytes_frame _ _

end Sys2Proof.Machine
end

