-- ==== Sys2Proof/Laws/Effect.lean ====
section
/-!
SUPPORT. What an instruction does to the state apart from its successor and its cost, in one table over the shared operations, and that
`exec` is this table.
-/

namespace Sys2Proof.Machine

/-- What an instruction does to everything but the PC and the cost. -/
def effect (i : Instr) (s : State) : State :=
  match i with
  | .ldRR d r => setR8 d (r8 r s).1 (r8 r s).2
  | .ldRN d n => setR8 d n s
  | .ldRHl d => setR8 d (memRead s.hl s).1 (memRead s.hl s).2
  | .ldHlR r => memWrite s.hl (r8 r s).1 (r8 r s).2
  | .ldHlN n => memWrite s.hl n s
  | .ldABc => loadA (s.cpu.pair .bc) s
  | .ldADe => loadA (s.cpu.pair .de) s
  | .ldBcA => storeA (s.cpu.pair .bc) s
  | .ldDeA => storeA (s.cpu.pair .de) s
  | .ldANn nn => loadA nn s
  | .ldNnA nn => storeA nn s
  | .ldhAN n => loadA (highPage n) s
  | .ldhNA n => storeA (highPage n) s
  | .ldhAC => loadA (highPage s.cpu.c) s
  | .ldhCA => storeA (highPage s.cpu.c) s
  | .ldHliA => (storeA s.hl s).setPair .hl (s.hl + 1#16)
  | .ldAHli => (loadA s.hl s).setPair .hl (s.hl + 1#16)
  | .ldHldA => (storeA s.hl s).setPair .hl (s.hl - 1#16)
  | .ldAHld => (loadA s.hl s).setPair .hl (s.hl - 1#16)
  | .ldRrNn rr nn => setR16 rr nn s
  | .ldNnSp nn => memWrite16 nn s.cpu.sp s
  | .ldSpHl => s.setSp s.hl
  | .ldHlSpE e => (s.setPair .hl (addSpDisp s.cpu.sp e).1).setFlags (addSpDisp s.cpu.sp e).2
  | .pushRr qq => push16 (r16stk qq s) s
  | .pushAf => push16 s.af s
  | .popAf => (pop16 s).2.setAf (pop16 s).1
  | .popRr qq => setR16stk qq (pop16 s).1 (pop16 s).2
  | .addAR r => accumulate .add (r8 r s).1 (r8 r s).2
  | .addAHl => accumulate .add (memRead s.hl s).1 (memRead s.hl s).2
  | .addAN n => accumulate .add n s
  | .adcAR r => accumulate .adc (r8 r s).1 (r8 r s).2
  | .adcAHl => accumulate .adc (memRead s.hl s).1 (memRead s.hl s).2
  | .adcAN n => accumulate .adc n s
  | .subR r => accumulate .sub (r8 r s).1 (r8 r s).2
  | .subHl => accumulate .sub (memRead s.hl s).1 (memRead s.hl s).2
  | .subN n => accumulate .sub n s
  | .sbcAR r => accumulate .sbc (r8 r s).1 (r8 r s).2
  | .sbcAHl => accumulate .sbc (memRead s.hl s).1 (memRead s.hl s).2
  | .sbcAN n => accumulate .sbc n s
  | .andR r => accumulate .and (r8 r s).1 (r8 r s).2
  | .andHl => accumulate .and (memRead s.hl s).1 (memRead s.hl s).2
  | .andN n => accumulate .and n s
  | .xorR r => accumulate .xor (r8 r s).1 (r8 r s).2
  | .xorHl => accumulate .xor (memRead s.hl s).1 (memRead s.hl s).2
  | .xorN n => accumulate .xor n s
  | .orR r => accumulate .or (r8 r s).1 (r8 r s).2
  | .orHl => accumulate .or (memRead s.hl s).1 (memRead s.hl s).2
  | .orN n => accumulate .or n s
  | .cpR r => accumulate .cp (r8 r s).1 (r8 r s).2
  | .cpHl => accumulate .cp (memRead s.hl s).1 (memRead s.hl s).2
  | .cpN n => accumulate .cp n s
  | .incR d => modifyOperand incByte d s
  | .incHl => modifyOperand incByte .ind s
  | .decR d => modifyOperand decByte d s
  | .decHl => modifyOperand decByte .ind s
  | .daa => modifyOperand daaByte (.reg .a) s
  | .cpl => (s.setReg .a (~~~s.cpu.a)).setFlags { s.cpu.flags with n := true, h := true }
  | .scf => s.setFlags { s.cpu.flags with n := false, h := false, c := true }
  | .ccf => s.setFlags { s.cpu.flags with n := false, h := false, c := !s.cpu.flags.c }
  | .addHlRr rr => (s.setPair .hl (addWords s.hl (r16 rr s) s.cpu.flags).1).setFlags (addWords s.hl (r16 rr s) s.cpu.flags).2
  | .incRr rr => setR16 rr (r16 rr s + 1#16) s
  | .decRr rr => setR16 rr (r16 rr s - 1#16) s
  | .addSpE e => (s.setSp (addSpDisp s.cpu.sp e).1).setFlags (addSpDisp s.cpu.sp e).2
  | .rlca => modifyOperand (rotateA .rlc) (.reg .a) s
  | .rrca => modifyOperand (rotateA .rrc) (.reg .a) s
  | .rla => modifyOperand (rotateA .rl) (.reg .a) s
  | .rra => modifyOperand (rotateA .rr) (.reg .a) s
  | .rlcR r => modifyOperand (shiftByte .rlc) r s
  | .rlcHl => modifyOperand (shiftByte .rlc) .ind s
  | .rrcR r => modifyOperand (shiftByte .rrc) r s
  | .rrcHl => modifyOperand (shiftByte .rrc) .ind s
  | .rlR r => modifyOperand (shiftByte .rl) r s
  | .rlHl => modifyOperand (shiftByte .rl) .ind s
  | .rrR r => modifyOperand (shiftByte .rr) r s
  | .rrHl => modifyOperand (shiftByte .rr) .ind s
  | .slaR r => modifyOperand (shiftByte .sla) r s
  | .slaHl => modifyOperand (shiftByte .sla) .ind s
  | .sraR r => modifyOperand (shiftByte .sra) r s
  | .sraHl => modifyOperand (shiftByte .sra) .ind s
  | .swapR r => modifyOperand (shiftByte .swap) r s
  | .swapHl => modifyOperand (shiftByte .swap) .ind s
  | .srlR r => modifyOperand (shiftByte .srl) r s
  | .srlHl => modifyOperand (shiftByte .srl) .ind s
  | .bitBR b r => (r8 r s).2.setFlags (bitFlags b (r8 r s).1 s.cpu.flags)
  | .bitBHl b => (memRead s.hl s).2.setFlags (bitFlags b (memRead s.hl s).1 s.cpu.flags)
  | .resBR b r => modifyOperand (fun v f => (clearBit b v, f)) r s
  | .resBHl b => modifyOperand (fun v f => (clearBit b v, f)) .ind s
  | .setBR b r => modifyOperand (fun v f => (setBit b v, f)) r s
  | .setBHl b => modifyOperand (fun v f => (setBit b v, f)) .ind s
  | .jpNn _ => s
  | .jpCcNn _ _ => s
  | .jpHl => s
  | .jrE _ => s
  | .jrCcE _ _ => s
  | .callNn _ => push16 (s.cpu.pc + 3#16) s
  | .callCcNn cc _ => if condition cc s.cpu.flags then push16 (s.cpu.pc + 3#16) s else s
  | .ret => (pop16 s).2
  | .retCc cc => if condition cc s.cpu.flags then (pop16 s).2 else s
  | .reti => (pop16 s).2.setIme true
  | .rst _ => push16 (s.cpu.pc + 1#16) s
  | .nop => s
  | .halt => s.setHalted true
  | .stop _ => s
  | .di => ((s.setIme false).setEiPending false).setEnableAfter false
  | .ei => if s.params.eiDelay then s.setEiPending true else s.setIme true

@[simp] theorem loadA_cpu (addr : Word) (s : State) : (loadA addr s).cpu = s.cpu.set .a (memRead addr s).1 := by
  simp [loadA, State.setReg]

@[simp] theorem storeA_cpu (addr : Word) (s : State) : (storeA addr s).cpu = s.cpu := memWrite_cpu _ _ _

@[simp] theorem memWrite16_cpu (addr v : Word) (s : State) : (memWrite16 addr v s).cpu = s.cpu := by simp [memWrite16]

@[simp] theorem setR8_pc (r : R8) (v : Byte) (s : State) : (setR8 r v s).cpu.pc = s.cpu.pc := by cases r <;> simp

@[simp] theorem setR16_pc (rr : R16) (v : Word) (s : State) : (setR16 rr v s).cpu.pc = s.cpu.pc := by
  cases rr <;> simp [setR16]

@[simp] theorem setAf_pc (v : Word) (s : State) : (s.setAf v).cpu.pc = s.cpu.pc := by simp [State.setAf]

@[simp] theorem setR16stk_pc (qq : StkPair) (v : Word) (s : State) : (setR16stk qq v s).cpu.pc = s.cpu.pc := by
  cases qq <;> simp [setR16stk]

@[simp] theorem accumulate_pc (op : AluOp) (v : Byte) (s : State) : (accumulate op v s).cpu.pc = s.cpu.pc := by
  simp [accumulate]

@[simp] theorem modifyOperand_pc (f : Byte → Flags → Byte × Flags) (r : R8) (s : State) : (modifyOperand f r s).cpu.pc = s.cpu.pc := by
  simp [modifyOperand]

/-- No instruction writes the PC: its successor is handed to the engine. -/
theorem effect_pc (i : Instr) (s : State) : (effect i s).cpu.pc = s.cpu.pc := by
  cases i <;> simp [effect] <;> split <;> simp

theorem rst_target (t : BitVec 3) : zext16 (t.setWidth 8 <<< 3) = BitVec.ofNat 16 (8 * t.toNat) := by
  revert t
  decide

/-- An instruction that runs on hands over the PC after it. -/
theorem finish_eq {pc : Word} (length : Word) (cost : Nat) {s : State} (h : s.cpu.pc = pc) :
    finish length cost s = .next ((s.setPc (pc + length)).setCycles cost) := by
  subst h
  rfl

/-- `exec` is the effect, with the successor and the cost of the instruction's rule; STOP is refused. -/
theorem exec_eq (i : Instr) (s : State) (h : ∀ n, i ≠ .stop n) :
    exec i s = .next (((effect i s).setPc (successor i s)).setCycles (baseCost i s)) := by
  have hp := effect_pc i s
  cases i
  case stop n => exact absurd rfl (h n)
  case jpCcNn cc nn =>
    simp only [exec, execJpCcNn, effect, successor, baseCost, taken, finish, goTo]
    split <;> simp [*]
  case jrCcE cc e =>
    simp only [exec, execJrCcE, effect, successor, baseCost, taken, finish, goTo, relative]
    split <;> simp [*]
  case callCcNn cc nn =>
    simp only [exec, execCallCcNn, callTo, effect, successor, baseCost, taken, finish, goTo]
    split <;> simp [*]
  case retCc cc =>
    simp only [exec, execRetCc, returnTo, effect, successor, baseCost, taken, finish, goTo, stackTop, pop16_eq]
    split <;> simp [*]
  case ret => simp only [exec, execRet, returnTo, effect, successor, baseCost, taken, goTo, stackTop, pop16_eq]
  case reti => simp only [exec, execReti, returnFromInterrupt, effect, successor, baseCost, taken, goTo, stackTop, pop16_eq]
  case rst t => simp only [exec, execRst, callTo, effect, successor, baseCost, taken, goTo, rst_target]
  case bitBR b r => simp only [exec, execBitBR, effect, successor, baseCost, taken, finish, goTo, r8_cpu, State.setFlags_pc]
  case bitBHl b => simp only [exec, execBitBHl, effect, successor, baseCost, taken, finish, goTo, memRead_cpu, State.setFlags_pc]
  case jpNn nn => rfl
  case jpHl => rfl
  case jrE e => rfl
  case callNn nn => rfl
  all_goals exact finish_eq _ _ hp

/-- Every next state of an instruction is its effect with the PC and the cost set. -/
theorem exec_next {i : Instr} {s t : State} (h : exec i s = .next t) :
    t = ((effect i s).setPc (successor i s)).setCycles (baseCost i s) := by
  by_cases hs : ∃ n, i = .stop n
  · obtain ⟨n, rfl⟩ := hs
    cases h
  · rw [exec_eq i s fun n hn => hs ⟨n, hn⟩] at h
    cases h
    rfl

end Sys2Proof.Machine
end

