-- ==== Sys2Proof/Laws/Invariant.lean ====
section
/-!
SUPPORT. Each shared operation keeps the stores legal.
-/

namespace Sys2Proof.Machine

theorem mod_lt_of_ne {a n : Nat} (h : n ≠ 0) : a % n < n := Nat.mod_lt a (Nat.pos_of_ne_zero h)

/-- Programming a bank register keeps the controller legal (20_memory R139). -/
theorem Mbc.write_legal {mbc : Mbc} {n : Nat} {ram : Memory} (addr : Word) (v : Byte) (h : mbc.legal n ram = true) :
    (mbc.write addr v).legal n ram = true := by
  cases mbc with
  | romOnly => rfl
  | mbc1 m => rfl
  | mbc5 m => rfl
  | mbc2 m => exact h
  | mbc3 m =>
    simp only [Mbc.legal, decide_eq_true_eq, Mbc.write] at h ⊢
    unfold Mbc3.write
    split
    · exact h
    · split
      · exact h
      · split
        · split
          · rename_i hs
            simp only [selectsClock, Bool.and_eq_true, decide_eq_true_eq] at hs
            simp only [BitVec.extractLsb'_toNat, BitVec.toNat_sub, BitVec.toNat_ofNat, Nat.shiftRight_zero]
            omega
          · exact h
        · exact h

/-- Writing a clock register keeps the controller legal. -/
theorem Mbc.setClock_legal {mbc : Mbc} {n : Nat} {ram : Memory} (sel : BitVec 3) (v : Byte) (h : mbc.legal n ram = true) :
    (mbc.setClock sel v).legal n ram = true := by
  cases mbc <;> exact h

/-- What an access to cartridge RAM can reach: a cell inside the RAM, or an entry of MBC2 (20_memory R124, R137). -/
theorem ramTarget_cell {p : Params} {mbc : Mbc} {addr : Word} {k : Nat} (h : ramTarget p mbc addr = .cell k) :
    k < p.ramLen ∧ ∀ m, mbc ≠ .mbc2 m := by
  have hc : ∀ bank, ramCell p.ramLen bank addr = .cell k → k < p.ramLen := by
    intro bank hb
    unfold ramCell at hb
    split at hb
    · cases hb
    · rename_i hn
      simp only [RamTarget.cell.injEq] at hb
      exact hb ▸ mod_lt_of_ne hn
  cases mbc with
  | romOnly => exact ⟨hc _ h, fun m hm => by cases hm⟩
  | mbc1 m =>
    simp only [ramTarget] at h
    split at h
    · exact ⟨hc _ h, fun m hm => by cases hm⟩
    · cases h
  | mbc2 m =>
    simp only [ramTarget] at h
    split at h <;> cases h
  | mbc3 m =>
    simp only [ramTarget] at h
    split at h
    · split at h
      · cases h
      · exact ⟨hc _ h, fun m hm => by cases hm⟩
    · cases h
  | mbc5 m =>
    simp only [ramTarget] at h
    split at h
    · exact ⟨hc _ h, fun m hm => by cases hm⟩
    · cases h

theorem ramTarget_nibble {p : Params} {mbc : Mbc} {addr : Word} {k : Nat} (h : ramTarget p mbc addr = .nibble k) :
    k < mbc2Entries ∧ ∃ m, mbc = .mbc2 m := by
  have hc : ∀ bank, ramCell p.ramLen bank addr ≠ .nibble k := by
    intro bank hb
    unfold ramCell at hb
    split at hb <;> cases hb
  cases mbc with
  | romOnly => exact absurd h (hc _)
  | mbc1 m =>
    simp only [ramTarget] at h
    split at h
    · exact absurd h (hc _)
    · cases h
  | mbc2 m =>
    simp only [ramTarget] at h
    split at h
    · simp only [RamTarget.nibble.injEq] at h
      exact ⟨h ▸ Nat.mod_lt _ (by decide), m, rfl⟩
    · cases h
  | mbc3 m =>
    simp only [ramTarget] at h
    split at h
    · split at h
      · cases h
      · exact absurd h (hc _)
    · cases h
  | mbc5 m =>
    simp only [ramTarget] at h
    split at h
    · exact absurd h (hc _)
    · cases h

/-- A write to cartridge RAM keeps the RAM canonical, inside its size, and the controller legal. -/
theorem cartWriteRam_legal {p : Params} {c : Cart} (addr : Word) (v : Byte) (hw : c.ram.within p.ramLen = true)
    (hl : c.mbc.legal p.ramLen c.ram = true) : (cartWriteRam p c addr v).ram.within p.ramLen = true ∧
    (cartWriteRam p c addr v).mbc.legal p.ramLen (cartWriteRam p c addr v).ram = true := by
  unfold cartWriteRam
  split
  · exact ⟨hw, hl⟩
  · rename_i k hk
    obtain ⟨hlt, hne⟩ := ramTarget_cell hk
    refine ⟨Memory.put_within v hw hlt, ?_⟩
    cases hm : c.mbc with
    | mbc2 m => exact absurd hm (hne m)
    | romOnly => rfl
    | mbc1 m => rfl
    | mbc5 m => rfl
    | mbc3 m => rw [hm] at hl; exact hl
  · rename_i k hk
    obtain ⟨hlt, m, hm⟩ := ramTarget_nibble hk
    simp only [hm, Mbc.legal, Bool.and_eq_true, decide_eq_true_eq] at hl ⊢
    refine ⟨Memory.put_within _ hw (by omega), hl.1, Memory.all_put hl.2 ?_⟩
    have h15 := Nat.and_le_right (n := v.toNat) (m := 15)
    exact decide_eq_true (by simpa using Nat.lt_of_le_of_lt h15 (by decide : (15 : Nat) < 16))
  · exact ⟨hw, Mbc.setClock_legal _ _ hl⟩

/-- A legal state's parts. -/
theorem State.legal_iff (s : State) : s.legal = true ↔ s.params.legal = true ∧ s.bus.wram.within 0x2000 = true ∧
    s.bus.hram.within 127 = true ∧ s.cart.ram.within s.params.ramLen = true ∧
    s.cart.mbc.legal s.params.ramLen s.cart.ram = true ∧ (s.bus.bootActive = true → s.params.boot.isSome = true) := by
  simp only [State.legal, Bool.and_eq_true, and_assoc, Bool.or_eq_true, Bool.not_eq_true']
  cases s.bus.bootActive <;> simp

/-- Legality looks at the bus, the cartridge and the configuration alone. -/
theorem State.legal_congr {s t : State} (hw : t.bus.wram = s.bus.wram) (hh : t.bus.hram = s.bus.hram)
    (ha : t.bus.bootActive = s.bus.bootActive) (hc : t.cart = s.cart) (hp : t.params = s.params) : t.legal = s.legal := by
  simp only [State.legal, hw, hh, ha, hc, hp]

/-! No update of a register, a flag or IF matters to legality. -/

@[simp] theorem State.setReg_legal (s : State) (r : Reg) (v : Byte) : (s.setReg r v).legal = s.legal :=
  State.legal_congr rfl rfl rfl rfl rfl
@[simp] theorem State.setPair_legal (s : State) (p : Pair) (v : Word) : (s.setPair p v).legal = s.legal :=
  State.legal_congr rfl rfl rfl rfl rfl
@[simp] theorem State.setFlags_legal (s : State) (f : Flags) : (s.setFlags f).legal = s.legal :=
  State.legal_congr rfl rfl rfl rfl rfl
@[simp] theorem State.setSp_legal (s : State) (v : Word) : (s.setSp v).legal = s.legal :=
  State.legal_congr rfl rfl rfl rfl rfl
@[simp] theorem State.setPc_legal (s : State) (v : Word) : (s.setPc v).legal = s.legal :=
  State.legal_congr rfl rfl rfl rfl rfl
@[simp] theorem State.setHalted_legal (s : State) (x : Bool) : (s.setHalted x).legal = s.legal :=
  State.legal_congr rfl rfl rfl rfl rfl
@[simp] theorem State.setIme_legal (s : State) (x : Bool) : (s.setIme x).legal = s.legal :=
  State.legal_congr rfl rfl rfl rfl rfl
@[simp] theorem State.setEiPending_legal (s : State) (x : Bool) : (s.setEiPending x).legal = s.legal :=
  State.legal_congr rfl rfl rfl rfl rfl
@[simp] theorem State.setEnableAfter_legal (s : State) (x : Bool) : (s.setEnableAfter x).legal = s.legal :=
  State.legal_congr rfl rfl rfl rfl rfl
@[simp] theorem State.setIflag_legal (s : State) (v : BitVec 5) : (s.setIflag v).legal = s.legal :=
  State.legal_congr rfl rfl rfl rfl rfl
@[simp] theorem State.setSurcharge_legal (s : State) (n : Nat) : (s.setSurcharge n).legal = s.legal :=
  State.legal_congr rfl rfl rfl rfl rfl
@[simp] theorem State.setCycles_legal (s : State) (n : Nat) : (s.setCycles n).legal = s.legal :=
  State.legal_congr rfl rfl rfl rfl rfl

/-- A byte written anywhere keeps the stores legal. -/
theorem memWrite_legal {s : State} (addr : Word) (v : Byte) (h : s.legal = true) : (memWrite addr v s).legal = true := by
  rw [State.legal_iff] at h ⊢
  obtain ⟨h1, h2, h3, h4, h5, h6⟩ := h
  have hwo : wramOffset addr < 0x2000 := Nat.mod_lt _ (by decide)
  unfold memWrite
  split
  · exact ⟨h1, h2, h3, h4, Mbc.write_legal addr v h5, h6⟩
  · exact ⟨h1, h2, h3, h4, Mbc.write_legal addr v h5, h6⟩
  · obtain ⟨hw, hl⟩ := cartWriteRam_legal addr v h4 h5
    exact ⟨h1, h2, h3, hw, hl, h6⟩
  · exact ⟨h1, Memory.put_within v h2 hwo, h3, h4, h5, h6⟩
  · exact ⟨h1, Memory.put_within v h2 hwo, h3, h4, h5, h6⟩
  · exact ⟨h1, h2, h3, h4, h5, h6⟩
  · exact ⟨h1, h2, h3, h4, h5, h6⟩
  · exact ⟨h1, h2, h3, h4, h5, fun hc => by cases hc⟩
  · rename_i hr
    refine ⟨h1, h2, Memory.put_within v h3 ?_, h4, h5, h6⟩
    have := addr.isLt
    simp only [route] at hr
    unfold hramOffset
    by_contra hcon
    have : addr.toNat = 0xFFFF := by omega
    simp only [this] at hr
    revert hr
    cases s.bus.bootActive <;> decide
  · exact ⟨h1, h2, h3, h4, h5, h6⟩
  · exact ⟨h1, h2, h3, h4, h5, h6⟩

theorem memRead_legal (addr : Word) (s : State) : (memRead addr s).2.legal = s.legal :=
  State.legal_congr (by simp) (by simp) (by simp) (by simp) (by simp)

theorem push16_legal {s : State} (v : Word) (h : s.legal = true) : (push16 v s).legal = true := by
  rw [push16_eq, State.setSp_legal]
  exact memWrite_legal _ _ (memWrite_legal _ _ h)

theorem pop16_legal (s : State) : (pop16 s).2.legal = s.legal := by
  refine State.legal_congr ?_ ?_ ?_ ?_ ?_ <;> simp

theorem r8_legal (r : R8) (s : State) : (r8 r s).2.legal = s.legal := by
  refine State.legal_congr ?_ ?_ ?_ ?_ ?_ <;> simp

theorem setR8_legal {s : State} (r : R8) (v : Byte) (h : s.legal = true) : (setR8 r v s).legal = true := by
  cases r with
  | reg r => rw [setR8_reg, State.setReg_legal, h]
  | ind => exact memWrite_legal _ _ h

theorem modifyOperand_legal {s : State} (f : Byte → Flags → Byte × Flags) (r : R8) (h : s.legal = true) :
    (modifyOperand f r s).legal = true := by
  simp only [modifyOperand, State.setFlags_legal]
  exact setR8_legal r _ ((r8_legal r s).trans h)

theorem enterInterrupt_legal {s : State} (l : Line) (h : s.legal = true) : (enterInterrupt l s).legal = true := by
  rw [enterInterrupt_eq, State.setSurcharge_legal, State.setPc_legal, State.setIme_legal]
  exact push16_legal _ (by rw [State.setIflag_legal, h])

end Sys2Proof.Machine
end

