-- ==== Sys2Proof/Laws/Launch.lean ====
section
/-!
SUPPORT. What the launch premises of Safety say of a state.
-/

namespace Sys2Proof.Machine

/-- An entry that fixes more is an entry. -/
theorem AtEntry.mono {pc : Word} {fixed fixed' : List Fixed} {s : State} (h : AtEntry pc fixed s) (hs : fixed' ⊆ fixed) :
    AtEntry pc fixed' s :=
  ⟨h.1, h.2.1, fun x hx => h.2.2 x (hs hx)⟩

/-- A byte that an entry fixes is the one the step reads there, once its inputs are taken. -/
theorem Fixed.peek_takeInput {addr : Word} {v : Byte} {s : State} (h : (Fixed.byte addr v).holds s) :
    peek addr (takeInput s) = some v := by
  rw [← h (takeInput s).ports.input]
  unfold takeInput
  split <;> exact peek_congr rfl rfl rfl rfl addr

/-- The bytes that an entry fixes from an address on are those the step reads there. -/
theorem peek_of_codeAt {bytes : List Byte} {addr : Word} {s : State} (h : ∀ x ∈ codeAt addr bytes, x.holds s) (k : Nat)
    (hk : k < bytes.length) : peek (addr + BitVec.ofNat 16 k) (takeInput s) = bytes[k]? := by
  induction bytes generalizing addr k with
  | nil => cases hk
  | cons v rest ih =>
    simp only [codeAt, List.forall_mem_cons] at h
    cases k with
    | zero => simpa using Fixed.peek_takeInput h.1
    | succ k =>
      have hs : addr + 1#16 + BitVec.ofNat 16 k = addr + BitVec.ofNat 16 (k + 1) := by
        rw [BitVec.add_assoc, ← BitVec.ofNat_add, Nat.add_comm]
      simpa [hs] using ih h.2 k (by simpa using hk)

/-- The code bytes of an instruction that begins a fragment are those the step reads at the PC. -/
theorem AtEntry.code {pc : Word} {bytes rest : List Byte} {fixed : List Fixed} {s : State}
    (h : AtEntry pc (.halted false :: codeAt pc (bytes ++ rest) ++ fixed) s) :
    s.cpu.halted = false ∧ s.cpu.pc = pc ∧
      ∀ k, k < bytes.length → peek (pc + BitVec.ofNat 16 k) (takeInput s) = bytes[k]? := by
  refine ⟨h.2.2 (.halted false) (by simp), h.2.1, fun k hk => ?_⟩
  have hc : ∀ x ∈ codeAt pc (bytes ++ rest), x.holds s := fun x hx => h.2.2 x (by simp [hx])
  rw [peek_of_codeAt hc k (by simp; omega), List.getElem?_append_left hk]

end Sys2Proof.Machine
end

