-- ==== Sys2Proof/Laws/PerInstr.lean ====
section
/-!
SUPPORT. Statements made for every instruction, one lemma per constructor. FetchLength: an instruction's bytes are as many as its first
byte asks for (30_encoding R170).
-/

namespace Sys2Proof.Laws

/-- The encoding is one byte and then as many as that byte asks for (30_encoding R170). -/
def FetchLength.Statement (i : Instr) : Prop := (encode i).length = 1 + bytesAfter ((encode i).headD 0x00#8)

theorem FetchLength.ldRR (d r : R8) : FetchLength.Statement (.ldRR d r) := by
  rcases d with (_ | _ | _ | _ | _ | _ | _) | _ <;> rcases r with (_ | _ | _ | _ | _ | _ | _) | _ <;> rfl

theorem FetchLength.ldRN (d : R8) (n : Byte) : FetchLength.Statement (.ldRN d n) := by
  rcases d with (_ | _ | _ | _ | _ | _ | _) | _ <;> rfl

theorem FetchLength.ldRHl (d : R8) : FetchLength.Statement (.ldRHl d) := by
  rcases d with (_ | _ | _ | _ | _ | _ | _) | _ <;> rfl

theorem FetchLength.ldHlR (r : R8) : FetchLength.Statement (.ldHlR r) := by
  rcases r with (_ | _ | _ | _ | _ | _ | _) | _ <;> rfl

theorem FetchLength.ldHlN (n : Byte) : FetchLength.Statement (.ldHlN n) := rfl

theorem FetchLength.ldABc : FetchLength.Statement .ldABc := rfl

theorem FetchLength.ldADe : FetchLength.Statement .ldADe := rfl

theorem FetchLength.ldBcA : FetchLength.Statement .ldBcA := rfl

theorem FetchLength.ldDeA : FetchLength.Statement .ldDeA := rfl

theorem FetchLength.ldANn (nn : Word) : FetchLength.Statement (.ldANn nn) := rfl

theorem FetchLength.ldNnA (nn : Word) : FetchLength.Statement (.ldNnA nn) := rfl

theorem FetchLength.ldhAN (n : Byte) : FetchLength.Statement (.ldhAN n) := rfl

theorem FetchLength.ldhNA (n : Byte) : FetchLength.Statement (.ldhNA n) := rfl

theorem FetchLength.ldhAC : FetchLength.Statement .ldhAC := rfl

theorem FetchLength.ldhCA : FetchLength.Statement .ldhCA := rfl

theorem FetchLength.ldHliA : FetchLength.Statement .ldHliA := rfl

theorem FetchLength.ldAHli : FetchLength.Statement .ldAHli := rfl

theorem FetchLength.ldHldA : FetchLength.Statement .ldHldA := rfl

theorem FetchLength.ldAHld : FetchLength.Statement .ldAHld := rfl

theorem FetchLength.ldRrNn (rr : R16) (nn : Word) : FetchLength.Statement (.ldRrNn rr nn) := by
  rcases rr with (_ | _ | _) | _ <;> rfl

theorem FetchLength.ldNnSp (nn : Word) : FetchLength.Statement (.ldNnSp nn) := rfl

theorem FetchLength.ldSpHl : FetchLength.Statement .ldSpHl := rfl

theorem FetchLength.ldHlSpE (e : Byte) : FetchLength.Statement (.ldHlSpE e) := rfl

theorem FetchLength.pushRr (qq : StkPair) : FetchLength.Statement (.pushRr qq) := by
  rcases qq with (_ | _ | _) | _ <;> rfl

theorem FetchLength.pushAf : FetchLength.Statement .pushAf := rfl

theorem FetchLength.popAf : FetchLength.Statement .popAf := rfl

theorem FetchLength.popRr (qq : StkPair) : FetchLength.Statement (.popRr qq) := by
  rcases qq with (_ | _ | _) | _ <;> rfl

theorem FetchLength.addAR (r : R8) : FetchLength.Statement (.addAR r) := by
  rcases r with (_ | _ | _ | _ | _ | _ | _) | _ <;> rfl

theorem FetchLength.addAHl : FetchLength.Statement .addAHl := rfl

theorem FetchLength.addAN (n : Byte) : FetchLength.Statement (.addAN n) := rfl

theorem FetchLength.adcAR (r : R8) : FetchLength.Statement (.adcAR r) := by
  rcases r with (_ | _ | _ | _ | _ | _ | _) | _ <;> rfl

theorem FetchLength.adcAHl : FetchLength.Statement .adcAHl := rfl

theorem FetchLength.adcAN (n : Byte) : FetchLength.Statement (.adcAN n) := rfl

theorem FetchLength.subR (r : R8) : FetchLength.Statement (.subR r) := by
  rcases r with (_ | _ | _ | _ | _ | _ | _) | _ <;> rfl

theorem FetchLength.subHl : FetchLength.Statement .subHl := rfl

theorem FetchLength.subN (n : Byte) : FetchLength.Statement (.subN n) := rfl

theorem FetchLength.sbcAR (r : R8) : FetchLength.Statement (.sbcAR r) := by
  rcases r with (_ | _ | _ | _ | _ | _ | _) | _ <;> rfl

theorem FetchLength.sbcAHl : FetchLength.Statement .sbcAHl := rfl

theorem FetchLength.sbcAN (n : Byte) : FetchLength.Statement (.sbcAN n) := rfl

theorem FetchLength.andR (r : R8) : FetchLength.Statement (.andR r) := by
  rcases r with (_ | _ | _ | _ | _ | _ | _) | _ <;> rfl

theorem FetchLength.andHl : FetchLength.Statement .andHl := rfl

theorem FetchLength.andN (n : Byte) : FetchLength.Statement (.andN n) := rfl

theorem FetchLength.xorR (r : R8) : FetchLength.Statement (.xorR r) := by
  rcases r with (_ | _ | _ | _ | _ | _ | _) | _ <;> rfl

theorem FetchLength.xorHl : FetchLength.Statement .xorHl := rfl

theorem FetchLength.xorN (n : Byte) : FetchLength.Statement (.xorN n) := rfl

theorem FetchLength.orR (r : R8) : FetchLength.Statement (.orR r) := by
  rcases r with (_ | _ | _ | _ | _ | _ | _) | _ <;> rfl

theorem FetchLength.orHl : FetchLength.Statement .orHl := rfl

theorem FetchLength.orN (n : Byte) : FetchLength.Statement (.orN n) := rfl

theorem FetchLength.cpR (r : R8) : FetchLength.Statement (.cpR r) := by
  rcases r with (_ | _ | _ | _ | _ | _ | _) | _ <;> rfl

theorem FetchLength.cpHl : FetchLength.Statement .cpHl := rfl

theorem FetchLength.cpN (n : Byte) : FetchLength.Statement (.cpN n) := rfl

theorem FetchLength.incR (d : R8) : FetchLength.Statement (.incR d) := by
  rcases d with (_ | _ | _ | _ | _ | _ | _) | _ <;> rfl

theorem FetchLength.incHl : FetchLength.Statement .incHl := rfl

theorem FetchLength.decR (d : R8) : FetchLength.Statement (.decR d) := by
  rcases d with (_ | _ | _ | _ | _ | _ | _) | _ <;> rfl

theorem FetchLength.decHl : FetchLength.Statement .decHl := rfl

theorem FetchLength.daa : FetchLength.Statement .daa := rfl

theorem FetchLength.cpl : FetchLength.Statement .cpl := rfl

theorem FetchLength.scf : FetchLength.Statement .scf := rfl

theorem FetchLength.ccf : FetchLength.Statement .ccf := rfl

theorem FetchLength.addHlRr (rr : R16) : FetchLength.Statement (.addHlRr rr) := by
  rcases rr with (_ | _ | _) | _ <;> rfl

theorem FetchLength.incRr (rr : R16) : FetchLength.Statement (.incRr rr) := by
  rcases rr with (_ | _ | _) | _ <;> rfl

theorem FetchLength.decRr (rr : R16) : FetchLength.Statement (.decRr rr) := by
  rcases rr with (_ | _ | _) | _ <;> rfl

theorem FetchLength.addSpE (e : Byte) : FetchLength.Statement (.addSpE e) := rfl

theorem FetchLength.rlca : FetchLength.Statement .rlca := rfl

theorem FetchLength.rrca : FetchLength.Statement .rrca := rfl

theorem FetchLength.rla : FetchLength.Statement .rla := rfl

theorem FetchLength.rra : FetchLength.Statement .rra := rfl

theorem FetchLength.rlcR (r : R8) : FetchLength.Statement (.rlcR r) := rfl

theorem FetchLength.rlcHl : FetchLength.Statement .rlcHl := rfl

theorem FetchLength.rrcR (r : R8) : FetchLength.Statement (.rrcR r) := rfl

theorem FetchLength.rrcHl : FetchLength.Statement .rrcHl := rfl

theorem FetchLength.rlR (r : R8) : FetchLength.Statement (.rlR r) := rfl

theorem FetchLength.rlHl : FetchLength.Statement .rlHl := rfl

theorem FetchLength.rrR (r : R8) : FetchLength.Statement (.rrR r) := rfl

theorem FetchLength.rrHl : FetchLength.Statement .rrHl := rfl

theorem FetchLength.slaR (r : R8) : FetchLength.Statement (.slaR r) := rfl

theorem FetchLength.slaHl : FetchLength.Statement .slaHl := rfl

theorem FetchLength.sraR (r : R8) : FetchLength.Statement (.sraR r) := rfl

theorem FetchLength.sraHl : FetchLength.Statement .sraHl := rfl

theorem FetchLength.swapR (r : R8) : FetchLength.Statement (.swapR r) := rfl

theorem FetchLength.swapHl : FetchLength.Statement .swapHl := rfl

theorem FetchLength.srlR (r : R8) : FetchLength.Statement (.srlR r) := rfl

theorem FetchLength.srlHl : FetchLength.Statement .srlHl := rfl

theorem FetchLength.bitBR (b : BitVec 3) (r : R8) : FetchLength.Statement (.bitBR b r) := rfl

theorem FetchLength.bitBHl (b : BitVec 3) : FetchLength.Statement (.bitBHl b) := rfl

theorem FetchLength.resBR (b : BitVec 3) (r : R8) : FetchLength.Statement (.resBR b r) := rfl

theorem FetchLength.resBHl (b : BitVec 3) : FetchLength.Statement (.resBHl b) := rfl

theorem FetchLength.setBR (b : BitVec 3) (r : R8) : FetchLength.Statement (.setBR b r) := rfl

theorem FetchLength.setBHl (b : BitVec 3) : FetchLength.Statement (.setBHl b) := rfl

theorem FetchLength.jpNn (nn : Word) : FetchLength.Statement (.jpNn nn) := rfl

theorem FetchLength.jpCcNn (cc : Cond) (nn : Word) : FetchLength.Statement (.jpCcNn cc nn) := by
  cases cc <;> rfl

theorem FetchLength.jpHl : FetchLength.Statement .jpHl := rfl

theorem FetchLength.jrE (e : Byte) : FetchLength.Statement (.jrE e) := rfl

theorem FetchLength.jrCcE (cc : Cond) (e : Byte) : FetchLength.Statement (.jrCcE cc e) := by
  cases cc <;> rfl

theorem FetchLength.callNn (nn : Word) : FetchLength.Statement (.callNn nn) := rfl

theorem FetchLength.callCcNn (cc : Cond) (nn : Word) : FetchLength.Statement (.callCcNn cc nn) := by
  cases cc <;> rfl

theorem FetchLength.ret : FetchLength.Statement .ret := rfl

theorem FetchLength.retCc (cc : Cond) : FetchLength.Statement (.retCc cc) := by
  cases cc <;> rfl

theorem FetchLength.reti : FetchLength.Statement .reti := rfl

theorem FetchLength.rst (t : BitVec 3) : FetchLength.Statement (.rst t) := by
  revert t
  unfold FetchLength.Statement
  decide

theorem FetchLength.nop : FetchLength.Statement .nop := rfl

theorem FetchLength.halt : FetchLength.Statement .halt := rfl

theorem FetchLength.stop (n : Byte) : FetchLength.Statement (.stop n) := rfl

theorem FetchLength.di : FetchLength.Statement .di := rfl

theorem FetchLength.ei : FetchLength.Statement .ei := rfl

end Sys2Proof.Laws
end

