-- ==== Sys2Proof/Laws/Step.lean ====
section
/-!
SUPPORT. What a step can do, said once, and what each stage of it leaves.
-/

namespace Sys2Proof.Machine

/-- Every next state of a step: the stages after the effect of the instruction that was fetched. -/
theorem step_next {s t : State} (h : step s = .next t) : ∃ i u, nextInstr (takeInput s) = .ok (i, u) ∧ (∀ n, i ≠ .stop n) ∧
    t = finishStep s.cpu.pc (((effect i (moveDelay u)).setPc (successor i (moveDelay u))).setCycles
      (baseCost i (moveDelay u))) := by
  unfold step at h
  split at h
  · cases h
  · rename_i i u hu
    split at h
    · rename_i v hv
      cases h
      refine ⟨i, u, hu, ?_, by rw [exec_next hv]⟩
      rintro n rfl
      cases hv
    · cases h
    · cases h

/-- Where an instruction other than STOP is fetched, the step has a next state. -/
theorem step_of_nextInstr {s u : State} {i : Instr} (h : nextInstr (takeInput s) = .ok (i, u)) (hs : ∀ n, i ≠ .stop n) :
    step s = .next (finishStep s.cpu.pc (((effect i (moveDelay u)).setPc (successor i (moveDelay u))).setCycles
      (baseCost i (moveDelay u)))) := by
  unfold step
  simp only [h, exec_eq i (moveDelay u) hs]

/-- Every fault of a step: the failure of the pair that stands at the PC (60_exceptions R406). -/
theorem step_fault {s : State} {f : Fault} (h : step s = .fault f) :
    f = decodeFailure (opcodePair (fetchBytes s.cpu.pc (takeInput s)).1) s.cpu.pc := by
  unfold step at h
  split at h
  · rename_i hn
    cases h
    unfold nextInstr at hn
    split at hn
    · cases hn
    · simp only [fetch, takeInput_cpu] at hn
      split at hn
      · cases hn
        rfl
      · split at hn <;> cases hn
        rfl
  · rename_i i t hn
    by_cases hs : ∃ n, i = .stop n
    · obtain ⟨n, rfl⟩ := hs
      cases h
    · rw [exec_eq i _ fun n hn => hs ⟨n, hn⟩] at h
      cases h

/-- Every refusal of a step: STOP's, at the PC (60_exceptions R407). -/
theorem step_refused {s : State} {r : Refusal} (h : step s = .refused r) : r = .unmodelled 0x10#8 s.cpu.pc := by
  unfold step at h
  split at h
  · cases h
  · rename_i i t hn
    by_cases hs : ∃ n, i = .stop n
    · obtain ⟨n, rfl⟩ := hs
      simp only [exec, execStop] at h
      cases h
      simp [moveDelay, (nextInstr_frame hn).1]
    · rw [exec_eq i _ fun n hn => hs ⟨n, hn⟩] at h
      cases h

/-! ### The stages -/

theorem applyEnable_eq (s : State) : applyEnable s = (s.setIme (s.cpu.ime || s.cpu.enableAfter)).setEnableAfter false := by
  unfold applyEnable
  split
  · rename_i h
    rw [h, Bool.or_true]
  · rename_i h
    rw [Bool.not_eq_true] at h
    rw [h, Bool.or_false]
    rfl

theorem wake_eq (s : State) : wake s = s.setHalted (s.cpu.halted && !s.anyPending) := by
  unfold wake
  split
  · rename_i h
    simp only [Bool.and_eq_true] at h
    simp [h.1, h.2]
  · rename_i h
    have : (s.cpu.halted && !s.anyPending) = s.cpu.halted := by
      cases hh : s.cpu.halted <;> simp_all
    rw [this]
    rfl

theorem commit_eq (pc0 : Word) (s : State) : commit pc0 s = s.setPc (if s.cpu.halted then pc0 else s.cpu.pc) := by
  unfold commit
  split <;> rfl

/-- The evaluator does nothing or takes one line. -/
theorem service_cases (s : State) : service s = s ∨ ∃ l, s.cpu.ime = true ∧ s.firstPending = some l ∧ service s = enterInterrupt l s := by
  unfold service
  split
  · split
    · rename_i h _ l hl
      exact .inr ⟨l, h, hl, rfl⟩
    · exact .inl rfl
  · exact .inl rfl

/-- The stages before the evaluator, in one expression. -/
theorem finishStep_eq (pc0 : Word) (s : State) : finishStep pc0 s = service (commit pc0 (wake (mergeReq (applyEnable s)))) := rfl

theorem stages_legal {s : State} (pc0 : Word) (h : s.legal = true) :
    (commit pc0 (wake (mergeReq (applyEnable s)))).legal = true := by
  simp [commit_eq, wake_eq, mergeReq, applyEnable_eq, h]

theorem service_legal {s : State} (h : s.legal = true) : (service s).legal = true := by
  rcases service_cases s with he | ⟨l, _, _, he⟩
  · rw [he, h]
  · rw [he]
    exact enterInterrupt_legal l h

@[simp] theorem enterInterrupt_enableAfter (l : Line) (s : State) : (enterInterrupt l s).cpu.enableAfter = s.cpu.enableAfter := by
  simp [enterInterrupt_eq, push16_eq]

@[simp] theorem enterInterrupt_params (l : Line) (s : State) : (enterInterrupt l s).params = s.params := by
  simp [enterInterrupt_eq, push16_eq]

@[simp] theorem service_enableAfter (s : State) : (service s).cpu.enableAfter = s.cpu.enableAfter := by
  rcases service_cases s with he | ⟨l, _, _, he⟩ <;> simp [he]

@[simp] theorem service_params (s : State) : (service s).params = s.params := by
  rcases service_cases s with he | ⟨l, _, _, he⟩ <;> simp [he]

/-- Fetching keeps the stores legal. -/
theorem nextInstr_legal {s u : State} {i : Instr} (h : nextInstr (takeInput s) = .ok (i, u)) : (moveDelay u).legal = s.legal := by
  obtain ⟨_, hb, hc, hp, _⟩ := nextInstr_frame h
  refine State.legal_congr ?_ ?_ ?_ ?_ ?_ <;> simp [moveDelay, hb, hc, hp]

/-- The effect of an instruction keeps the stores legal. -/
theorem effect_legal (i : Instr) {s : State} (h : s.legal = true) : (effect i s).legal = true := by
  cases i
  case ei => simp only [effect]; split <;> simp [h]
  case callCcNn => simp only [effect]; split <;> simp [h, push16_legal]
  case retCc => simp only [effect]; split <;> simp [h, pop16_legal]
  case ldRrNn rr nn => cases rr <;> simp [effect, setR16, h]
  case incRr rr => cases rr <;> simp [effect, setR16, h]
  case decRr rr => cases rr <;> simp [effect, setR16, h]
  case popRr qq => cases qq <;> simp [effect, setR16stk, h, pop16_legal, State.setAf]
  all_goals
    simp [effect, h, setR8_legal, r8_legal, memRead_legal, memWrite_legal, push16_legal, pop16_legal, modifyOperand_legal,
      accumulate, loadA, storeA, memWrite16, State.setAf]

end Sys2Proof.Machine
end

