-- ==== Sys2Proof/Tests/Slice0.lean ====
section
/-!
SUPPORT. The model's own tests: ill-formed terms that WellFormed refuses, words of every row written out bit by bit, the spec's example of
every instruction, vectors of 95_test_vectors for the engine, and for each statement with hypotheses a state and operands that meet them.
Every expected value is the spec's.
-/

namespace Sys2Proof.Tests

open Sys2Proof.Machine

/-- The CPU of 95_test_vectors before a vector: every register 0, SP = 0xDFFE, code at 0xC000. -/
def zero : Cpu :=
  ⟨0#8, 0#8, 0#8, 0#8, 0#8, 0#8, 0#8, ⟨false, false, false, false⟩, 0xDFFE#16, 0xC000#16, false, false, false, false⟩

/-- Bytes at rising addresses. -/
def place : Word → List Byte → State → State
  | _, [], s => s
  | a, v :: rest, s => place (a + 1#16) rest (memWrite a v s)

/-- The state of a vector: the step's input, the bytes set in memory, the code at PC, and the CPU. -/
def board (i : StepInput) (cells : List (Word × Byte)) (code : List Byte) (u : Cpu) : State :=
  cells.foldl (fun s c => memWrite c.1 c.2 s) (place u.pc code
    { State.reset with cpu := u, bus := { Bus.reset with iflag := 0#5 }, ports := { Ports.reset with inputs := [i] } })

/-- The state of a vector with nothing set but the code. -/
def quietly (code : List Byte) : State := board StepInput.quiet [] code zero

/-- The same machine with pairs left out of `P_DECODE_SET`. -/
def without (pairs : List (Bool × Byte)) (s : State) : State := { s with params := { s.params with decodeOmits := pairs } }

/-- The same machine with `P_EI_DELAY = 0`. -/
def undelayed (s : State) : State := { s with params := { s.params with eiDelay := false } }

/-- The same machine with rows of `P_CYCLES`. -/
def costing (rows : List CostRow) (s : State) : State := { s with params := { s.params with cycles := rows } }

/-- The same machine with the collaborators' coming answers. -/
def answering (bytes : List Byte) (s : State) : State := { s with ports := { s.ports with bytes := bytes } }

/-- A machine under its boot overlay, with a ROM that begins 0x3C. -/
def booted (image : Memory) (pc : Word) : State :=
  { State.reset with
    cpu := { zero with pc := pc }
    bus := { Bus.reset with bootActive := true }
    params := { Params.reset with boot := some image, rom := [(0, 0x3C#8)] }
    ports := { Ports.reset with inputs := [StepInput.quiet] } }

/-- The next state of a step, if it has one. -/
def after (s : State) : Option State :=
  match step s with
  | .next t => some t
  | .fault _ => none
  | .refused _ => none

/-- The fault of an outcome. -/
def faultOf (o : Out) : Option Fault :=
  match o with
  | .fault f => some f
  | .next _ => none
  | .refused _ => none

/-- The refusal of an outcome. -/
def refusalOf (o : Out) : Option Refusal :=
  match o with
  | .refused r => some r
  | .next _ => none
  | .fault _ => none

/-- The CPU, the cost reported, and the bytes at some addresses, after a step. -/
def look (addrs : List Word) (s : State) : Option (Cpu × Nat × List (Option Byte)) :=
  (after s).map fun t => (t.cpu, t.reported, addrs.map fun a => peek a t)

theorem next_of_after {s : State} {p : State → Bool} (h : (after s).any p = true) : ∃ t, step s = .next t ∧ p t = true := by
  unfold after at h
  split at h
  · exact ⟨_, ‹_›, by simpa using h⟩
  · simp at h
  · simp at h

/-- Each byte list decodes to its instruction, with nothing left over. -/
def readsAs (cases : List (List Byte × Instr)) : Bool :=
  cases.all fun c =>
    match decode c.1 with
    | .ok (i, rest) => decide (i = c.2) && rest.isEmpty
    | .error _ => false

/-- A clock at zero. -/
def midnight : Rtc := ⟨0#8, 0#8, 0#8, 0#8, 0#8⟩

/-- Eight banks of ROM, of which bank k begins with 0x40 + k, and a RAM of some size. -/
def sized (ramLen : Nat) : Params :=
  { Params.reset with
    rom := (List.range 8).map fun k => (k * 0x4000, BitVec.ofNat 8 (0x40 + k))
    romLen := 8 * 0x4000
    ramLen := ramLen }

/-- The first byte of the bank that a controller shows at 0x4000. -/
def bankSeen (mbc : Mbc) : Byte := cartRead (sized 0) ⟨[], mbc⟩ 0x4000#16

/-- A controller of each variant whose RAM is open. -/
def openRams : List Mbc :=
  [.romOnly, .mbc1 ⟨true, 0#5, 3#2, 1#1⟩, .mbc2 ⟨true, 1#4⟩, .mbc3 ⟨true, 1#7, 3#2, false, 0#3, midnight⟩, .mbc5 ⟨true, 1#8, 0#1, 15#4⟩]

/-- A launch of a ROM that holds a header alone, of a type and a RAM-size byte, with a collaborator. -/
def launch (t c : Byte) (save : Option (List Byte)) : Launch where
  rom := List.replicate 0x147 0x00#8 ++ [t, 0x00#8, c] ++ List.replicate 6 0x00#8
  boot := none
  collaborator := true
  save := save
  ramSentinel := 0x00#8
  eiDelay := true
  rtcModel := .draw
  decodeOmits := []
  cycles := []
  postBoot := Start.postBoot
  drawn := Start.postBoot
  drawnRtc := midnight

/-- The session of a launch. -/
def built (x : Launch) : Option State :=
  match construct x with
  | .ok s => some s
  | .error _ => none

/-- The launch gives a session. -/
def constructs (x : Launch) : Bool := (built x).isSome

/-- Why a launch gives none. -/
def failureOf (x : Launch) : Option ConstructionFailure :=
  match construct x with
  | .ok _ => none
  | .error f => some f

/-! ### WellFormed -/

/-- One ill-formed term for each check: a field at the value that its row excludes. -/
theorem test_ill_formed :
    [Instr.ldRR .ind (.reg .a), .ldRR (.reg .a) .ind, .ldRN .ind 0#8, .ldRHl .ind, .ldHlR .ind, .pushRr .af, .popRr .af, .addAR .ind,
      .adcAR .ind, .subR .ind, .sbcAR .ind, .andR .ind, .xorR .ind, .orR .ind, .cpR .ind, .incR .ind, .decR .ind, .rlcR .ind,
      .rrcR .ind, .rlR .ind, .rrR .ind, .slaR .ind, .sraR .ind, .swapR .ind, .srlR .ind, .bitBR 0#3 .ind, .resBR 0#3 .ind,
      .setBR 0#3 .ind].all (fun i => !i.wellFormed) = true := by
  decide

/-! ### Decoding -/

/-- What no row maps, and what ends inside an instruction, is refused by name (30_encoding R168). -/
theorem test_decode_refusals :
    decode [0xFD#8, 0x00#8] = .error (.unmapped 0xFD#8 false) ∧ decode [] = .error .truncated ∧ decode [0xCB#8] = .error .truncated ∧
    decode [0xC3#8, 0x00#8] = .error .truncated ∧ decode [0x06#8] = .error .truncated :=
  ⟨rfl, rfl, rfl, rfl, rfl⟩
/-- Words written bit by bit from the encodings of 40_load8 (R201 to R216). -/
theorem test_decode_load81 :
    readsAs
      [([0b01100001#8], .ldRR (.reg .h) (.reg .c)),
       ([0b00100110#8, 0b10110101#8], .ldRN (.reg .h) 0b10110101#8),
       ([0b01100110#8], .ldRHl (.reg .h)),
       ([0b01110001#8], .ldHlR (.reg .c)),
       ([0b00110110#8, 0b10110101#8], .ldHlN 0b10110101#8),
       ([0b00001010#8], .ldABc),
       ([0b00011010#8], .ldADe),
       ([0b00000010#8], .ldBcA),
       ([0b00010010#8], .ldDeA),
       ([0b11111010#8, 0b00101100#8, 0b11000001#8], .ldANn 0b1100000100101100#16),
       ([0b11101010#8, 0b00101100#8, 0b11000001#8], .ldNnA 0b1100000100101100#16),
       ([0b11110000#8, 0b10110101#8], .ldhAN 0b10110101#8),
       ([0b11100000#8, 0b10110101#8], .ldhNA 0b10110101#8),
       ([0b11110010#8], .ldhAC),
       ([0b11100010#8], .ldhCA),
       ([0b00100010#8], .ldHliA)] = true := by
  decide

/-- Words written bit by bit from the encodings of 40_load8 (R217 to R219). -/
theorem test_decode_load82 :
    readsAs
      [([0b00101010#8], .ldAHli),
       ([0b00110010#8], .ldHldA),
       ([0b00111010#8], .ldAHld)] = true := by
  decide

/-- Words written bit by bit from the encodings of 41_load16 (R241 to R248). -/
theorem test_decode_load16 :
    readsAs
      [([0b00010001#8, 0b00101100#8, 0b11000001#8], .ldRrNn (.pair .de) 0b1100000100101100#16),
       ([0b00001000#8, 0b00101100#8, 0b11000001#8], .ldNnSp 0b1100000100101100#16),
       ([0b11111001#8], .ldSpHl),
       ([0b11111000#8, 0b10110101#8], .ldHlSpE 0b10110101#8),
       ([0b11100101#8], .pushRr (.pair .hl)),
       ([0b11110101#8], .pushAf),
       ([0b11110001#8], .popAf),
       ([0b11100001#8], .popRr (.pair .hl))] = true := by
  decide

/-- Words written bit by bit from the encodings of 42_alu8 (R261 to R276). -/
theorem test_decode_alu81 :
    readsAs
      [([0b10000001#8], .addAR (.reg .c)),
       ([0b10000110#8], .addAHl),
       ([0b11000110#8, 0b10110101#8], .addAN 0b10110101#8),
       ([0b10001001#8], .adcAR (.reg .c)),
       ([0b10001110#8], .adcAHl),
       ([0b11001110#8, 0b10110101#8], .adcAN 0b10110101#8),
       ([0b10010001#8], .subR (.reg .c)),
       ([0b10010110#8], .subHl),
       ([0b11010110#8, 0b10110101#8], .subN 0b10110101#8),
       ([0b10011001#8], .sbcAR (.reg .c)),
       ([0b10011110#8], .sbcAHl),
       ([0b11011110#8, 0b10110101#8], .sbcAN 0b10110101#8),
       ([0b10100001#8], .andR (.reg .c)),
       ([0b10100110#8], .andHl),
       ([0b11100110#8, 0b10110101#8], .andN 0b10110101#8),
       ([0b10101001#8], .xorR (.reg .c))] = true := by
  decide

/-- Words written bit by bit from the encodings of 42_alu8 (R277 to R292). -/
theorem test_decode_alu82 :
    readsAs
      [([0b10101110#8], .xorHl),
       ([0b11101110#8, 0b10110101#8], .xorN 0b10110101#8),
       ([0b10110001#8], .orR (.reg .c)),
       ([0b10110110#8], .orHl),
       ([0b11110110#8, 0b10110101#8], .orN 0b10110101#8),
       ([0b10111001#8], .cpR (.reg .c)),
       ([0b10111110#8], .cpHl),
       ([0b11111110#8, 0b10110101#8], .cpN 0b10110101#8),
       ([0b00100100#8], .incR (.reg .h)),
       ([0b00110100#8], .incHl),
       ([0b00100101#8], .decR (.reg .h)),
       ([0b00110101#8], .decHl),
       ([0b00100111#8], .daa),
       ([0b00101111#8], .cpl),
       ([0b00110111#8], .scf),
       ([0b00111111#8], .ccf)] = true := by
  decide

/-- Words written bit by bit from the encodings of 43_alu16 (R311 to R314). -/
theorem test_decode_alu16 :
    readsAs
      [([0b00011001#8], .addHlRr (.pair .de)),
       ([0b00010011#8], .incRr (.pair .de)),
       ([0b00011011#8], .decRr (.pair .de)),
       ([0b11101000#8, 0b10110101#8], .addSpE 0b10110101#8)] = true := by
  decide

/-- Words written bit by bit from the encodings of 44_rotate_shift_bit (R321 to R336). -/
theorem test_decode_rotate_shift_bit1 :
    readsAs
      [([0b00000111#8], .rlca),
       ([0b00001111#8], .rrca),
       ([0b00010111#8], .rla),
       ([0b00011111#8], .rra),
       ([0b11001011#8, 0b00000001#8], .rlcR (.reg .c)),
       ([0b11001011#8, 0b00000110#8], .rlcHl),
       ([0b11001011#8, 0b00001001#8], .rrcR (.reg .c)),
       ([0b11001011#8, 0b00001110#8], .rrcHl),
       ([0b11001011#8, 0b00010001#8], .rlR (.reg .c)),
       ([0b11001011#8, 0b00010110#8], .rlHl),
       ([0b11001011#8, 0b00011001#8], .rrR (.reg .c)),
       ([0b11001011#8, 0b00011110#8], .rrHl),
       ([0b11001011#8, 0b00100001#8], .slaR (.reg .c)),
       ([0b11001011#8, 0b00100110#8], .slaHl),
       ([0b11001011#8, 0b00101001#8], .sraR (.reg .c)),
       ([0b11001011#8, 0b00101110#8], .sraHl)] = true := by
  decide

/-- Words written bit by bit from the encodings of 44_rotate_shift_bit (R337 to R346). -/
theorem test_decode_rotate_shift_bit2 :
    readsAs
      [([0b11001011#8, 0b00110001#8], .swapR (.reg .c)),
       ([0b11001011#8, 0b00110110#8], .swapHl),
       ([0b11001011#8, 0b00111001#8], .srlR (.reg .c)),
       ([0b11001011#8, 0b00111110#8], .srlHl),
       ([0b11001011#8, 0b01110001#8], .bitBR 6#3 (.reg .c)),
       ([0b11001011#8, 0b01110110#8], .bitBHl 6#3),
       ([0b11001011#8, 0b10110001#8], .resBR 6#3 (.reg .c)),
       ([0b11001011#8, 0b10110110#8], .resBHl 6#3),
       ([0b11001011#8, 0b11110001#8], .setBR 6#3 (.reg .c)),
       ([0b11001011#8, 0b11110110#8], .setBHl 6#3)] = true := by
  decide

/-- Words written bit by bit from the encodings of 45_control (R361 to R371). -/
theorem test_decode_control :
    readsAs
      [([0b11000011#8, 0b00101100#8, 0b11000001#8], .jpNn 0b1100000100101100#16),
       ([0b11001010#8, 0b00101100#8, 0b11000001#8], .jpCcNn .z 0b1100000100101100#16),
       ([0b11101001#8], .jpHl),
       ([0b00011000#8, 0b10110101#8], .jrE 0b10110101#8),
       ([0b00101000#8, 0b10110101#8], .jrCcE .z 0b10110101#8),
       ([0b11001101#8, 0b00101100#8, 0b11000001#8], .callNn 0b1100000100101100#16),
       ([0b11001100#8, 0b00101100#8, 0b11000001#8], .callCcNn .z 0b1100000100101100#16),
       ([0b11001001#8], .ret),
       ([0b11001000#8], .retCc .z),
       ([0b11011001#8], .reti),
       ([0b11101111#8], .rst 5#3)] = true := by
  decide

/-- Words written bit by bit from the encodings of 46_system (R391 to R395). -/
theorem test_decode_system :
    readsAs
      [([0b00000000#8], .nop),
       ([0b01110110#8], .halt),
       ([0b00010000#8, 0b10110101#8], .stop 0b10110101#8),
       ([0b11110011#8], .di),
       ([0b11111011#8], .ei)] = true := by
  decide

/-! ### The example of every instruction (95_test_vectors, notation; the rules of 40_load8 to 46_system) -/

/-- `LD B, C`: the example of R201. -/
theorem test_ldRR :
    look [] (board StepInput.quiet [] [0x41#8] { zero with b := 0x00#8, c := 0x5A#8 })
      = some ({ zero with b := 0x5A#8, c := 0x5A#8, pc := 0xC001#16 }, 4, []) := by
  decide

/-- `LD D, n`: the example of R202. -/
theorem test_ldRN :
    look [] (board StepInput.quiet [] [0x16#8, 0x9C#8] { zero with d := 0x00#8 })
      = some ({ zero with d := 0x9C#8, pc := 0xC002#16 }, 8, []) := by
  decide

/-- `LD E, (HL)`: the example of R203. -/
theorem test_ldRHl :
    look [] (board StepInput.quiet [(0xC100#16, 0x77#8)] [0x5E#8] { zero with e := 0x00#8, h := 0xC1#8, l := 0x00#8 })
      = some ({ zero with e := 0x77#8, h := 0xC1#8, l := 0x00#8, pc := 0xC001#16 }, 8, []) := by
  decide

/-- `LD (HL), A`: the example of R204. -/
theorem test_ldHlR :
    look [0xC120#16] (board StepInput.quiet [] [0x77#8] { zero with a := 0x3C#8, h := 0xC1#8, l := 0x20#8 })
      = some ({ zero with a := 0x3C#8, h := 0xC1#8, l := 0x20#8, pc := 0xC001#16 }, 8, [some 0x3C#8]) := by
  decide

/-- `LD (HL), n`: the example of R205. -/
theorem test_ldHlN :
    look [0xC200#16] (board StepInput.quiet [] [0x36#8, 0xA5#8] { zero with h := 0xC2#8, l := 0x00#8 })
      = some ({ zero with h := 0xC2#8, l := 0x00#8, pc := 0xC002#16 }, 12, [some 0xA5#8]) := by
  decide

/-- `LD A, (BC)`: the example of R206. -/
theorem test_ldABc :
    look [] (board StepInput.quiet [(0xC010#16, 0x81#8)] [0x0A#8] { zero with a := 0x00#8, b := 0xC0#8, c := 0x10#8, d := 0xC0#8, e := 0x10#8 })
      = some ({ zero with a := 0x81#8, b := 0xC0#8, c := 0x10#8, d := 0xC0#8, e := 0x10#8, pc := 0xC001#16 }, 8, []) := by
  decide

/-- `LD A, (DE)`: the example of R207. -/
theorem test_ldADe :
    look [] (board StepInput.quiet [(0xC010#16, 0x81#8)] [0x1A#8] { zero with a := 0x00#8, b := 0xC0#8, c := 0x10#8, d := 0xC0#8, e := 0x10#8 })
      = some ({ zero with a := 0x81#8, b := 0xC0#8, c := 0x10#8, d := 0xC0#8, e := 0x10#8, pc := 0xC001#16 }, 8, []) := by
  decide

/-- `LD (BC), A`: the example of R208. -/
theorem test_ldBcA :
    look [0xC030#16] (board StepInput.quiet [] [0x02#8] { zero with a := 0x5E#8, b := 0xC0#8, c := 0x30#8, d := 0xC0#8, e := 0x30#8 })
      = some ({ zero with a := 0x5E#8, b := 0xC0#8, c := 0x30#8, d := 0xC0#8, e := 0x30#8, pc := 0xC001#16 }, 8, [some 0x5E#8]) := by
  decide

/-- `LD (DE), A`: the example of R209. -/
theorem test_ldDeA :
    look [0xC030#16] (board StepInput.quiet [] [0x12#8] { zero with a := 0x5E#8, b := 0xC0#8, c := 0x30#8, d := 0xC0#8, e := 0x30#8 })
      = some ({ zero with a := 0x5E#8, b := 0xC0#8, c := 0x30#8, d := 0xC0#8, e := 0x30#8, pc := 0xC001#16 }, 8, [some 0x5E#8]) := by
  decide

/-- `LD A, (nn)`: the example of R210. -/
theorem test_ldANn :
    look [] (board StepInput.quiet [(0xC345#16, 0x19#8)] [0xFA#8, 0x45#8, 0xC3#8] { zero with a := 0x00#8 })
      = some ({ zero with a := 0x19#8, pc := 0xC003#16 }, 16, []) := by
  decide

/-- `LD (nn), A`: the example of R211. -/
theorem test_ldNnA :
    look [0xD000#16] (board StepInput.quiet [] [0xEA#8, 0x00#8, 0xD0#8] { zero with a := 0x66#8 })
      = some ({ zero with a := 0x66#8, pc := 0xC003#16 }, 16, [some 0x66#8]) := by
  decide

/-- `LDH A, (n)`: the example of R212. -/
theorem test_ldhAN :
    look [] (board StepInput.quiet [(0xFF85#16, 0x2B#8)] [0xF0#8, 0x85#8] { zero with a := 0x00#8 })
      = some ({ zero with a := 0x2B#8, pc := 0xC002#16 }, 12, []) := by
  decide

/-- `LDH (n), A`: the example of R213. -/
theorem test_ldhNA :
    look [0xFFFF#16] (board StepInput.quiet [] [0xE0#8, 0xFF#8] { zero with a := 0x04#8 })
      = some ({ zero with a := 0x04#8, pc := 0xC002#16 }, 12, [some 0x04#8]) := by
  decide

/-- `LDH A, (C)`: the example of R214. -/
theorem test_ldhAC :
    look [] (board StepInput.quiet [(0xFF80#16, 0x11#8)] [0xF2#8] { zero with a := 0x00#8, c := 0x80#8 })
      = some ({ zero with a := 0x11#8, c := 0x80#8, pc := 0xC001#16 }, 8, []) := by
  decide

/-- `LDH (C), A`: the example of R215. -/
theorem test_ldhCA :
    look [0xFF90#16] (board StepInput.quiet [] [0xE2#8] { zero with a := 0x99#8, c := 0x90#8 })
      = some ({ zero with a := 0x99#8, c := 0x90#8, pc := 0xC001#16 }, 8, [some 0x99#8]) := by
  decide

/-- `LD (HL+), A`: the example of R216. -/
theorem test_ldHliA :
    look [0xC0FF#16] (board StepInput.quiet [(0xC0FF#16, 0x24#8)] [0x22#8] { zero with a := 0x42#8, h := 0xC0#8, l := 0xFF#8 })
      = some ({ zero with a := 0x42#8, h := 0xC1#8, l := 0x00#8, pc := 0xC001#16 }, 8, [some 0x42#8]) := by
  decide

/-- `LD A, (HL+)`: the example of R217. -/
theorem test_ldAHli :
    look [] (board StepInput.quiet [(0xC0FF#16, 0x24#8)] [0x2A#8] { zero with a := 0x00#8, h := 0xC0#8, l := 0xFF#8 })
      = some ({ zero with a := 0x24#8, h := 0xC1#8, l := 0x00#8, pc := 0xC001#16 }, 8, []) := by
  decide

/-- `LD (HL-), A`: the example of R218. -/
theorem test_ldHldA :
    look [0xC0FF#16] (board StepInput.quiet [(0xC0FF#16, 0x24#8)] [0x32#8] { zero with a := 0x42#8, h := 0xC0#8, l := 0xFF#8 })
      = some ({ zero with a := 0x42#8, h := 0xC0#8, l := 0xFE#8, pc := 0xC001#16 }, 8, [some 0x42#8]) := by
  decide

/-- `LD A, (HL-)`: the example of R219. -/
theorem test_ldAHld :
    look [] (board StepInput.quiet [(0xC0FF#16, 0x24#8)] [0x3A#8] { zero with a := 0x00#8, h := 0xC0#8, l := 0xFF#8 })
      = some ({ zero with a := 0x24#8, h := 0xC0#8, l := 0xFE#8, pc := 0xC001#16 }, 8, []) := by
  decide

/-- `LD HL, nn`: the example of R241. -/
theorem test_ldRrNn :
    look [] (board StepInput.quiet [] [0x21#8, 0x34#8, 0x12#8] { zero with h := 0x00#8, l := 0x00#8 })
      = some ({ zero with h := 0x12#8, l := 0x34#8, pc := 0xC003#16 }, 12, []) := by
  decide

/-- `LD (nn), SP`: the example of R242. -/
theorem test_ldNnSp :
    look [0xC400#16, 0xC401#16] (board StepInput.quiet [] [0x08#8, 0x00#8, 0xC4#8] { zero with sp := 0xDFF0#16 })
      = some ({ zero with sp := 0xDFF0#16, pc := 0xC003#16 }, 20, [some 0xF0#8, some 0xDF#8]) := by
  decide

/-- `LD SP, HL`: the example of R243. -/
theorem test_ldSpHl :
    look [] (board StepInput.quiet [] [0xF9#8] { zero with h := 0xD0#8, l := 0x00#8, sp := 0xFFFE#16 })
      = some ({ zero with h := 0xD0#8, l := 0x00#8, sp := 0xD000#16, pc := 0xC001#16 }, 8, []) := by
  decide

/-- `LD HL, SP+e`: the example of R244. -/
theorem test_ldHlSpE :
    look [] (board StepInput.quiet [] [0xF8#8, 0x08#8] { zero with flags := ⟨false, false, false, false⟩, sp := 0xFFF8#16 })
      = some ({ zero with flags := ⟨false, false, true, true⟩, sp := 0xFFF8#16, pc := 0xC002#16 }, 12, []) := by
  decide

/-- `PUSH BC`: the example of R245. -/
theorem test_pushRr :
    look [0xDFFC#16, 0xDFFD#16] (board StepInput.quiet [] [0xC5#8] { zero with b := 0x12#8, c := 0x34#8, sp := 0xDFFE#16 })
      = some ({ zero with b := 0x12#8, c := 0x34#8, sp := 0xDFFC#16, pc := 0xC001#16 }, 16, [some 0x34#8, some 0x12#8]) := by
  decide

/-- `PUSH AF`: the example of R246. -/
theorem test_pushAf :
    look [0xDFFC#16, 0xDFFD#16] (board StepInput.quiet [] [0xF5#8] { zero with a := 0x80#8, flags := ⟨true, false, false, true⟩, sp := 0xDFFE#16 })
      = some ({ zero with a := 0x80#8, flags := ⟨true, false, false, true⟩, sp := 0xDFFC#16, pc := 0xC001#16 }, 16, [some 0x90#8, some 0x80#8]) := by
  decide

/-- `POP AF`: the example of R247. -/
theorem test_popAf :
    look [] (board StepInput.quiet [(0xDFFC#16, 0xFF#8), (0xDFFD#16, 0x12#8)] [0xF1#8] { zero with flags := ⟨false, false, false, false⟩, sp := 0xDFFC#16 })
      = some ({ zero with a := 0x12#8, flags := ⟨true, true, true, true⟩, sp := 0xDFFE#16, pc := 0xC001#16 }, 12, []) := by
  decide

/-- `POP DE`: the example of R248. -/
theorem test_popRr :
    look [] (board StepInput.quiet [(0xDFFC#16, 0x34#8), (0xDFFD#16, 0x12#8)] [0xD1#8] { zero with sp := 0xDFFC#16 })
      = some ({ zero with d := 0x12#8, e := 0x34#8, sp := 0xDFFE#16, pc := 0xC001#16 }, 12, []) := by
  decide

/-- `ADD A, D`: the example of R261. -/
theorem test_addAR :
    look [] (board StepInput.quiet [] [0x82#8] { zero with a := 0x3A#8, d := 0xC6#8, flags := ⟨false, false, false, false⟩ })
      = some ({ zero with a := 0x00#8, d := 0xC6#8, flags := ⟨true, false, true, true⟩, pc := 0xC001#16 }, 4, []) := by
  decide

/-- `ADD A, (HL)`: the example of R262. -/
theorem test_addAHl :
    look [] (board StepInput.quiet [(0xC100#16, 0xC6#8)] [0x86#8] { zero with a := 0x3A#8, h := 0xC1#8, l := 0x00#8, flags := ⟨false, false, false, false⟩ })
      = some ({ zero with a := 0x00#8, h := 0xC1#8, l := 0x00#8, flags := ⟨true, false, true, true⟩, pc := 0xC001#16 }, 8, []) := by
  decide

/-- `ADD A, n`: the example of R263. -/
theorem test_addAN :
    look [] (board StepInput.quiet [] [0xC6#8, 0xC6#8] { zero with a := 0x3A#8, flags := ⟨false, false, false, false⟩ })
      = some ({ zero with a := 0x00#8, flags := ⟨true, false, true, true⟩, pc := 0xC002#16 }, 8, []) := by
  decide

/-- `ADC A, D`: the example of R264. -/
theorem test_adcAR :
    look [] (board StepInput.quiet [] [0x8A#8] { zero with a := 0xE1#8, d := 0x0F#8, flags := ⟨false, false, false, true⟩ })
      = some ({ zero with a := 0xF1#8, d := 0x0F#8, flags := ⟨false, false, true, false⟩, pc := 0xC001#16 }, 4, []) := by
  decide

/-- `ADC A, (HL)`: the example of R265. -/
theorem test_adcAHl :
    look [] (board StepInput.quiet [(0xC100#16, 0x0F#8)] [0x8E#8] { zero with a := 0xE1#8, h := 0xC1#8, l := 0x00#8, flags := ⟨false, false, false, true⟩ })
      = some ({ zero with a := 0xF1#8, h := 0xC1#8, l := 0x00#8, flags := ⟨false, false, true, false⟩, pc := 0xC001#16 }, 8, []) := by
  decide

/-- `ADC A, n`: the example of R266. -/
theorem test_adcAN :
    look [] (board StepInput.quiet [] [0xCE#8, 0x0F#8] { zero with a := 0xE1#8, flags := ⟨false, false, false, true⟩ })
      = some ({ zero with a := 0xF1#8, flags := ⟨false, false, true, false⟩, pc := 0xC002#16 }, 8, []) := by
  decide

/-- `SUB D`: the example of R267. -/
theorem test_subR :
    look [] (board StepInput.quiet [] [0x92#8] { zero with a := 0x3E#8, d := 0x3E#8, flags := ⟨false, false, false, false⟩ })
      = some ({ zero with a := 0x00#8, d := 0x3E#8, flags := ⟨true, true, false, false⟩, pc := 0xC001#16 }, 4, []) := by
  decide

/-- `SUB (HL)`: the example of R268. -/
theorem test_subHl :
    look [] (board StepInput.quiet [(0xC100#16, 0x3E#8)] [0x96#8] { zero with a := 0x3E#8, h := 0xC1#8, l := 0x00#8, flags := ⟨false, false, false, false⟩ })
      = some ({ zero with a := 0x00#8, h := 0xC1#8, l := 0x00#8, flags := ⟨true, true, false, false⟩, pc := 0xC001#16 }, 8, []) := by
  decide

/-- `SUB n`: the example of R269. -/
theorem test_subN :
    look [] (board StepInput.quiet [] [0xD6#8, 0x3E#8] { zero with a := 0x3E#8, flags := ⟨false, false, false, false⟩ })
      = some ({ zero with a := 0x00#8, flags := ⟨true, true, false, false⟩, pc := 0xC002#16 }, 8, []) := by
  decide

/-- `SBC A, D`: the example of R270. -/
theorem test_sbcAR :
    look [] (board StepInput.quiet [] [0x9A#8] { zero with a := 0x3B#8, d := 0x2A#8, flags := ⟨false, false, false, true⟩ })
      = some ({ zero with a := 0x10#8, d := 0x2A#8, flags := ⟨false, true, false, false⟩, pc := 0xC001#16 }, 4, []) := by
  decide

/-- `SBC A, (HL)`: the example of R271. -/
theorem test_sbcAHl :
    look [] (board StepInput.quiet [(0xC100#16, 0x2A#8)] [0x9E#8] { zero with a := 0x3B#8, h := 0xC1#8, l := 0x00#8, flags := ⟨false, false, false, true⟩ })
      = some ({ zero with a := 0x10#8, h := 0xC1#8, l := 0x00#8, flags := ⟨false, true, false, false⟩, pc := 0xC001#16 }, 8, []) := by
  decide

/-- `SBC A, n`: the example of R272. -/
theorem test_sbcAN :
    look [] (board StepInput.quiet [] [0xDE#8, 0x2A#8] { zero with a := 0x3B#8, flags := ⟨false, false, false, true⟩ })
      = some ({ zero with a := 0x10#8, flags := ⟨false, true, false, false⟩, pc := 0xC002#16 }, 8, []) := by
  decide

/-- `AND D`: the example of R273. -/
theorem test_andR :
    look [] (board StepInput.quiet [] [0xA2#8] { zero with a := 0x5A#8, d := 0x3F#8, flags := ⟨false, false, false, false⟩ })
      = some ({ zero with a := 0x1A#8, d := 0x3F#8, flags := ⟨false, false, true, false⟩, pc := 0xC001#16 }, 4, []) := by
  decide

/-- `AND (HL)`: the example of R274. -/
theorem test_andHl :
    look [] (board StepInput.quiet [(0xC100#16, 0x3F#8)] [0xA6#8] { zero with a := 0x5A#8, h := 0xC1#8, l := 0x00#8, flags := ⟨false, false, false, false⟩ })
      = some ({ zero with a := 0x1A#8, h := 0xC1#8, l := 0x00#8, flags := ⟨false, false, true, false⟩, pc := 0xC001#16 }, 8, []) := by
  decide

/-- `AND n`: the example of R275. -/
theorem test_andN :
    look [] (board StepInput.quiet [] [0xE6#8, 0x3F#8] { zero with a := 0x5A#8, flags := ⟨false, false, false, false⟩ })
      = some ({ zero with a := 0x1A#8, flags := ⟨false, false, true, false⟩, pc := 0xC002#16 }, 8, []) := by
  decide

/-- `XOR D`: the example of R276. -/
theorem test_xorR :
    look [] (board StepInput.quiet [] [0xAA#8] { zero with a := 0xFF#8, d := 0x0F#8, flags := ⟨false, false, false, false⟩ })
      = some ({ zero with a := 0xF0#8, d := 0x0F#8, flags := ⟨false, false, false, false⟩, pc := 0xC001#16 }, 4, []) := by
  decide

/-- `XOR (HL)`: the example of R277. -/
theorem test_xorHl :
    look [] (board StepInput.quiet [(0xC100#16, 0x0F#8)] [0xAE#8] { zero with a := 0xFF#8, h := 0xC1#8, l := 0x00#8, flags := ⟨false, false, false, false⟩ })
      = some ({ zero with a := 0xF0#8, h := 0xC1#8, l := 0x00#8, flags := ⟨false, false, false, false⟩, pc := 0xC001#16 }, 8, []) := by
  decide

/-- `XOR n`: the example of R278. -/
theorem test_xorN :
    look [] (board StepInput.quiet [] [0xEE#8, 0x0F#8] { zero with a := 0xFF#8, flags := ⟨false, false, false, false⟩ })
      = some ({ zero with a := 0xF0#8, flags := ⟨false, false, false, false⟩, pc := 0xC002#16 }, 8, []) := by
  decide

/-- `OR D`: the example of R279. -/
theorem test_orR :
    look [] (board StepInput.quiet [] [0xB2#8] { zero with a := 0x5A#8, d := 0x00#8, flags := ⟨false, false, false, false⟩ })
      = some ({ zero with a := 0x5A#8, d := 0x00#8, flags := ⟨false, false, false, false⟩, pc := 0xC001#16 }, 4, []) := by
  decide

/-- `OR (HL)`: the example of R280. -/
theorem test_orHl :
    look [] (board StepInput.quiet [(0xC100#16, 0x00#8)] [0xB6#8] { zero with a := 0x5A#8, h := 0xC1#8, l := 0x00#8, flags := ⟨false, false, false, false⟩ })
      = some ({ zero with a := 0x5A#8, h := 0xC1#8, l := 0x00#8, flags := ⟨false, false, false, false⟩, pc := 0xC001#16 }, 8, []) := by
  decide

/-- `OR n`: the example of R281. -/
theorem test_orN :
    look [] (board StepInput.quiet [] [0xF6#8, 0x00#8] { zero with a := 0x5A#8, flags := ⟨false, false, false, false⟩ })
      = some ({ zero with a := 0x5A#8, flags := ⟨false, false, false, false⟩, pc := 0xC002#16 }, 8, []) := by
  decide

/-- `CP D`: the example of R282. -/
theorem test_cpR :
    look [] (board StepInput.quiet [] [0xBA#8] { zero with a := 0x3C#8, d := 0x40#8, flags := ⟨false, false, false, false⟩ })
      = some ({ zero with a := 0x3C#8, d := 0x40#8, flags := ⟨false, true, false, true⟩, pc := 0xC001#16 }, 4, []) := by
  decide

/-- `CP (HL)`: the example of R283. -/
theorem test_cpHl :
    look [] (board StepInput.quiet [(0xC100#16, 0x40#8)] [0xBE#8] { zero with a := 0x3C#8, h := 0xC1#8, l := 0x00#8, flags := ⟨false, false, false, false⟩ })
      = some ({ zero with a := 0x3C#8, h := 0xC1#8, l := 0x00#8, flags := ⟨false, true, false, true⟩, pc := 0xC001#16 }, 8, []) := by
  decide

/-- `CP n`: the example of R284. -/
theorem test_cpN :
    look [] (board StepInput.quiet [] [0xFE#8, 0x40#8] { zero with a := 0x3C#8, flags := ⟨false, false, false, false⟩ })
      = some ({ zero with a := 0x3C#8, flags := ⟨false, true, false, true⟩, pc := 0xC002#16 }, 8, []) := by
  decide

/-- `INC E`: the example of R285. -/
theorem test_incR :
    look [] (board StepInput.quiet [] [0x1C#8] { zero with e := 0xFF#8, flags := ⟨false, false, false, true⟩ })
      = some ({ zero with e := 0x00#8, flags := ⟨true, false, true, true⟩, pc := 0xC001#16 }, 4, []) := by
  decide

/-- `INC (HL)`: the example of R286. -/
theorem test_incHl :
    look [0xC100#16] (board StepInput.quiet [(0xC100#16, 0x0F#8)] [0x34#8] { zero with h := 0xC1#8, l := 0x00#8, flags := ⟨false, false, false, false⟩ })
      = some ({ zero with h := 0xC1#8, l := 0x00#8, flags := ⟨false, false, true, false⟩, pc := 0xC001#16 }, 12, [some 0x10#8]) := by
  decide

/-- `DEC B`: the example of R287. -/
theorem test_decR :
    look [] (board StepInput.quiet [] [0x05#8] { zero with b := 0x01#8, flags := ⟨false, false, false, false⟩ })
      = some ({ zero with b := 0x00#8, flags := ⟨true, true, false, false⟩, pc := 0xC001#16 }, 4, []) := by
  decide

/-- `DEC (HL)`: the example of R288. -/
theorem test_decHl :
    look [0xC100#16] (board StepInput.quiet [(0xC100#16, 0x10#8)] [0x35#8] { zero with h := 0xC1#8, l := 0x00#8, flags := ⟨false, false, false, false⟩ })
      = some ({ zero with h := 0xC1#8, l := 0x00#8, flags := ⟨false, true, true, false⟩, pc := 0xC001#16 }, 12, [some 0x0F#8]) := by
  decide

/-- `DAA`: the example of R289. -/
theorem test_daa :
    look [] (board StepInput.quiet [] [0x27#8] { zero with a := 0x3C#8, flags := ⟨false, false, false, false⟩ })
      = some ({ zero with a := 0x42#8, flags := ⟨false, false, false, false⟩, pc := 0xC001#16 }, 4, []) := by
  decide

/-- `CPL`: the example of R290. -/
theorem test_cpl :
    look [] (board StepInput.quiet [] [0x2F#8] { zero with a := 0x35#8, flags := ⟨false, false, false, false⟩ })
      = some ({ zero with a := 0xCA#8, flags := ⟨false, true, true, false⟩, pc := 0xC001#16 }, 4, []) := by
  decide

/-- `SCF`: the example of R291. -/
theorem test_scf :
    look [] (board StepInput.quiet [] [0x37#8] { zero with flags := ⟨false, true, true, false⟩ })
      = some ({ zero with flags := ⟨false, false, false, true⟩, pc := 0xC001#16 }, 4, []) := by
  decide

/-- `CCF`: the example of R292. -/
theorem test_ccf :
    look [] (board StepInput.quiet [] [0x3F#8] { zero with flags := ⟨true, false, false, true⟩ })
      = some ({ zero with flags := ⟨true, false, false, false⟩, pc := 0xC001#16 }, 4, []) := by
  decide

/-- `ADD HL, BC`: the example of R311. -/
theorem test_addHlRr :
    look [] (board StepInput.quiet [] [0x09#8] { zero with b := 0x06#8, c := 0x05#8, h := 0x8A#8, l := 0x23#8, flags := ⟨false, false, false, false⟩ })
      = some ({ zero with b := 0x06#8, c := 0x05#8, h := 0x90#8, l := 0x28#8, flags := ⟨false, false, true, false⟩, pc := 0xC001#16 }, 8, []) := by
  decide

/-- `INC DE`: the example of R312. -/
theorem test_incRr :
    look [] (board StepInput.quiet [] [0x13#8] { zero with d := 0xFF#8, e := 0xFF#8 })
      = some ({ zero with d := 0x00#8, e := 0x00#8, pc := 0xC001#16 }, 8, []) := by
  decide

/-- `DEC BC`: the example of R313. -/
theorem test_decRr :
    look [] (board StepInput.quiet [] [0x0B#8] { zero with b := 0x00#8, c := 0x00#8 })
      = some ({ zero with b := 0xFF#8, c := 0xFF#8, pc := 0xC001#16 }, 8, []) := by
  decide

/-- `ADD SP, e`: the example of R314. -/
theorem test_addSpE :
    look [] (board StepInput.quiet [] [0xE8#8, 0xFE#8] { zero with flags := ⟨false, false, false, false⟩, sp := 0xFFF8#16 })
      = some ({ zero with flags := ⟨false, false, true, true⟩, sp := 0xFFF6#16, pc := 0xC002#16 }, 16, []) := by
  decide

/-- `RLCA`: the example of R321. -/
theorem test_rlca :
    look [] (board StepInput.quiet [] [0x07#8] { zero with a := 0x85#8, flags := ⟨false, false, false, false⟩ })
      = some ({ zero with a := 0x0B#8, flags := ⟨false, false, false, true⟩, pc := 0xC001#16 }, 4, []) := by
  decide

/-- `RRCA`: the example of R322. -/
theorem test_rrca :
    look [] (board StepInput.quiet [] [0x0F#8] { zero with a := 0x85#8, flags := ⟨false, false, false, false⟩ })
      = some ({ zero with a := 0xC2#8, flags := ⟨false, false, false, true⟩, pc := 0xC001#16 }, 4, []) := by
  decide

/-- `RLA`: the example of R323. -/
theorem test_rla :
    look [] (board StepInput.quiet [] [0x17#8] { zero with a := 0x85#8, flags := ⟨false, false, false, false⟩ })
      = some ({ zero with a := 0x0A#8, flags := ⟨false, false, false, true⟩, pc := 0xC001#16 }, 4, []) := by
  decide

/-- `RRA`: the example of R324. -/
theorem test_rra :
    look [] (board StepInput.quiet [] [0x1F#8] { zero with a := 0x85#8, flags := ⟨false, false, false, false⟩ })
      = some ({ zero with a := 0x42#8, flags := ⟨false, false, false, true⟩, pc := 0xC001#16 }, 4, []) := by
  decide

/-- `RLC B`: the example of R325. -/
theorem test_rlcR :
    look [] (board StepInput.quiet [] [0xCB#8, 0x00#8] { zero with b := 0x85#8, flags := ⟨false, false, false, false⟩ })
      = some ({ zero with b := 0x0B#8, flags := ⟨false, false, false, true⟩, pc := 0xC002#16 }, 8, []) := by
  decide

/-- `RLC (HL)`: the example of R326. -/
theorem test_rlcHl :
    look [0xC100#16] (board StepInput.quiet [(0xC100#16, 0x85#8)] [0xCB#8, 0x06#8] { zero with h := 0xC1#8, l := 0x00#8, flags := ⟨false, false, false, false⟩ })
      = some ({ zero with h := 0xC1#8, l := 0x00#8, flags := ⟨false, false, false, true⟩, pc := 0xC002#16 }, 16, [some 0x0B#8]) := by
  decide

/-- `RRC B`: the example of R327. -/
theorem test_rrcR :
    look [] (board StepInput.quiet [] [0xCB#8, 0x08#8] { zero with b := 0x85#8, flags := ⟨false, false, false, false⟩ })
      = some ({ zero with b := 0xC2#8, flags := ⟨false, false, false, true⟩, pc := 0xC002#16 }, 8, []) := by
  decide

/-- `RRC (HL)`: the example of R328. -/
theorem test_rrcHl :
    look [0xC100#16] (board StepInput.quiet [(0xC100#16, 0x85#8)] [0xCB#8, 0x0E#8] { zero with h := 0xC1#8, l := 0x00#8, flags := ⟨false, false, false, false⟩ })
      = some ({ zero with h := 0xC1#8, l := 0x00#8, flags := ⟨false, false, false, true⟩, pc := 0xC002#16 }, 16, [some 0xC2#8]) := by
  decide

/-- `RL B`: the example of R329. -/
theorem test_rlR :
    look [] (board StepInput.quiet [] [0xCB#8, 0x10#8] { zero with b := 0x85#8, flags := ⟨false, false, false, false⟩ })
      = some ({ zero with b := 0x0A#8, flags := ⟨false, false, false, true⟩, pc := 0xC002#16 }, 8, []) := by
  decide

/-- `RL (HL)`: the example of R330. -/
theorem test_rlHl :
    look [0xC100#16] (board StepInput.quiet [(0xC100#16, 0x85#8)] [0xCB#8, 0x16#8] { zero with h := 0xC1#8, l := 0x00#8, flags := ⟨false, false, false, false⟩ })
      = some ({ zero with h := 0xC1#8, l := 0x00#8, flags := ⟨false, false, false, true⟩, pc := 0xC002#16 }, 16, [some 0x0A#8]) := by
  decide

/-- `RR B`: the example of R331. -/
theorem test_rrR :
    look [] (board StepInput.quiet [] [0xCB#8, 0x18#8] { zero with b := 0x85#8, flags := ⟨false, false, false, false⟩ })
      = some ({ zero with b := 0x42#8, flags := ⟨false, false, false, true⟩, pc := 0xC002#16 }, 8, []) := by
  decide

/-- `RR (HL)`: the example of R332. -/
theorem test_rrHl :
    look [0xC100#16] (board StepInput.quiet [(0xC100#16, 0x85#8)] [0xCB#8, 0x1E#8] { zero with h := 0xC1#8, l := 0x00#8, flags := ⟨false, false, false, false⟩ })
      = some ({ zero with h := 0xC1#8, l := 0x00#8, flags := ⟨false, false, false, true⟩, pc := 0xC002#16 }, 16, [some 0x42#8]) := by
  decide

/-- `SLA B`: the example of R333. -/
theorem test_slaR :
    look [] (board StepInput.quiet [] [0xCB#8, 0x20#8] { zero with b := 0x85#8, flags := ⟨false, false, false, false⟩ })
      = some ({ zero with b := 0x0A#8, flags := ⟨false, false, false, true⟩, pc := 0xC002#16 }, 8, []) := by
  decide

/-- `SLA (HL)`: the example of R334. -/
theorem test_slaHl :
    look [0xC100#16] (board StepInput.quiet [(0xC100#16, 0x85#8)] [0xCB#8, 0x26#8] { zero with h := 0xC1#8, l := 0x00#8, flags := ⟨false, false, false, false⟩ })
      = some ({ zero with h := 0xC1#8, l := 0x00#8, flags := ⟨false, false, false, true⟩, pc := 0xC002#16 }, 16, [some 0x0A#8]) := by
  decide

/-- `SRA B`: the example of R335. -/
theorem test_sraR :
    look [] (board StepInput.quiet [] [0xCB#8, 0x28#8] { zero with b := 0x85#8, flags := ⟨false, false, false, false⟩ })
      = some ({ zero with b := 0xC2#8, flags := ⟨false, false, false, true⟩, pc := 0xC002#16 }, 8, []) := by
  decide

/-- `SRA (HL)`: the example of R336. -/
theorem test_sraHl :
    look [0xC100#16] (board StepInput.quiet [(0xC100#16, 0x85#8)] [0xCB#8, 0x2E#8] { zero with h := 0xC1#8, l := 0x00#8, flags := ⟨false, false, false, false⟩ })
      = some ({ zero with h := 0xC1#8, l := 0x00#8, flags := ⟨false, false, false, true⟩, pc := 0xC002#16 }, 16, [some 0xC2#8]) := by
  decide

/-- `SWAP B`: the example of R337. -/
theorem test_swapR :
    look [] (board StepInput.quiet [] [0xCB#8, 0x30#8] { zero with b := 0x85#8, flags := ⟨false, false, false, false⟩ })
      = some ({ zero with b := 0x58#8, flags := ⟨false, false, false, false⟩, pc := 0xC002#16 }, 8, []) := by
  decide

/-- `SWAP (HL)`: the example of R338. -/
theorem test_swapHl :
    look [0xC100#16] (board StepInput.quiet [(0xC100#16, 0x85#8)] [0xCB#8, 0x36#8] { zero with h := 0xC1#8, l := 0x00#8, flags := ⟨false, false, false, false⟩ })
      = some ({ zero with h := 0xC1#8, l := 0x00#8, flags := ⟨false, false, false, false⟩, pc := 0xC002#16 }, 16, [some 0x58#8]) := by
  decide

/-- `SRL B`: the example of R339. -/
theorem test_srlR :
    look [] (board StepInput.quiet [] [0xCB#8, 0x38#8] { zero with b := 0x85#8, flags := ⟨false, false, false, false⟩ })
      = some ({ zero with b := 0x42#8, flags := ⟨false, false, false, true⟩, pc := 0xC002#16 }, 8, []) := by
  decide

/-- `SRL (HL)`: the example of R340. -/
theorem test_srlHl :
    look [0xC100#16] (board StepInput.quiet [(0xC100#16, 0x85#8)] [0xCB#8, 0x3E#8] { zero with h := 0xC1#8, l := 0x00#8, flags := ⟨false, false, false, false⟩ })
      = some ({ zero with h := 0xC1#8, l := 0x00#8, flags := ⟨false, false, false, true⟩, pc := 0xC002#16 }, 16, [some 0x42#8]) := by
  decide

/-- `BIT 7, A`: the example of R341. -/
theorem test_bitBR :
    look [] (board StepInput.quiet [] [0xCB#8, 0x7F#8] { zero with a := 0x80#8, flags := ⟨false, false, false, false⟩ })
      = some ({ zero with a := 0x80#8, flags := ⟨false, false, true, false⟩, pc := 0xC002#16 }, 8, []) := by
  decide

/-- `BIT 0, (HL)`: the example of R342. -/
theorem test_bitBHl :
    look [] (board StepInput.quiet [(0xC100#16, 0xFE#8)] [0xCB#8, 0x46#8] { zero with h := 0xC1#8, l := 0x00#8, flags := ⟨false, false, false, false⟩ })
      = some ({ zero with h := 0xC1#8, l := 0x00#8, flags := ⟨true, false, true, false⟩, pc := 0xC002#16 }, 12, []) := by
  decide

/-- `RES 3, C`: the example of R343. -/
theorem test_resBR :
    look [] (board StepInput.quiet [] [0xCB#8, 0x99#8] { zero with c := 0xFF#8 })
      = some ({ zero with c := 0xF7#8, pc := 0xC002#16 }, 8, []) := by
  decide

/-- `RES 7, (HL)`: the example of R344. -/
theorem test_resBHl :
    look [0xC100#16] (board StepInput.quiet [(0xC100#16, 0xFF#8)] [0xCB#8, 0xBE#8] { zero with h := 0xC1#8, l := 0x00#8 })
      = some ({ zero with h := 0xC1#8, l := 0x00#8, pc := 0xC002#16 }, 16, [some 0x7F#8]) := by
  decide

/-- `SET 7, L`: the example of R345. -/
theorem test_setBR :
    look [] (board StepInput.quiet [] [0xCB#8, 0xFD#8] { zero with l := 0x00#8 })
      = some ({ zero with l := 0x80#8, pc := 0xC002#16 }, 8, []) := by
  decide

/-- `SET 0, (HL)`: the example of R346. -/
theorem test_setBHl :
    look [0xC100#16] (board StepInput.quiet [(0xC100#16, 0x00#8)] [0xCB#8, 0xC6#8] { zero with h := 0xC1#8, l := 0x00#8 })
      = some ({ zero with h := 0xC1#8, l := 0x00#8, pc := 0xC002#16 }, 16, [some 0x01#8]) := by
  decide

/-- `JP nn`: the example of R361. -/
theorem test_jpNn :
    look [] (board StepInput.quiet [] [0xC3#8, 0x50#8, 0x01#8] zero)
      = some ({ zero with pc := 0x0150#16 }, 16, []) := by
  decide

/-- `JP Z, nn`: the example of R362. -/
theorem test_jpCcNn :
    look [] (board StepInput.quiet [] [0xCA#8, 0x00#8, 0x40#8] { zero with flags := ⟨true, false, false, false⟩ })
      = some ({ zero with flags := ⟨true, false, false, false⟩, pc := 0x4000#16 }, 16, []) := by
  decide

/-- `JP HL`: the example of R363. -/
theorem test_jpHl :
    look [] (board StepInput.quiet [] [0xE9#8] { zero with h := 0x12#8, l := 0x34#8 })
      = some ({ zero with h := 0x12#8, l := 0x34#8, pc := 0x1234#16 }, 4, []) := by
  decide

/-- `JR e`: the example of R364. -/
theorem test_jrE :
    look [] (board StepInput.quiet [] [0x18#8, 0x05#8] zero)
      = some ({ zero with pc := 0xC007#16 }, 12, []) := by
  decide

/-- `JR NZ, e`: the example of R365. -/
theorem test_jrCcE :
    look [] (board StepInput.quiet [] [0x20#8, 0xFB#8] { zero with flags := ⟨false, false, false, false⟩ })
      = some ({ zero with flags := ⟨false, false, false, false⟩, pc := 0xBFFD#16 }, 12, []) := by
  decide

/-- `CALL nn`: the example of R366. -/
theorem test_callNn :
    look [0xDFFC#16, 0xDFFD#16] (board StepInput.quiet [] [0xCD#8, 0x00#8, 0x20#8] { zero with sp := 0xDFFE#16 })
      = some ({ zero with sp := 0xDFFC#16, pc := 0x2000#16 }, 24, [some 0x03#8, some 0xC0#8]) := by
  decide

/-- `CALL C, nn`: the example of R367. -/
theorem test_callCcNn :
    look [0xDFFC#16, 0xDFFD#16] (board StepInput.quiet [] [0xDC#8, 0x00#8, 0x20#8] { zero with flags := ⟨false, false, false, true⟩, sp := 0xDFFE#16 })
      = some ({ zero with flags := ⟨false, false, false, true⟩, sp := 0xDFFC#16, pc := 0x2000#16 }, 24, [some 0x03#8, some 0xC0#8]) := by
  decide

/-- `RET`: the example of R368. -/
theorem test_ret :
    look [] (board StepInput.quiet [(0xDFFC#16, 0x03#8), (0xDFFD#16, 0xC0#8)] [0xC9#8] { zero with sp := 0xDFFC#16 })
      = some ({ zero with sp := 0xDFFE#16, pc := 0xC003#16 }, 16, []) := by
  decide

/-- `RET NZ`: the example of R369. -/
theorem test_retCc :
    look [] (board StepInput.quiet [(0xDFFC#16, 0x03#8), (0xDFFD#16, 0xC0#8)] [0xC0#8] { zero with flags := ⟨false, false, false, false⟩, sp := 0xDFFC#16 })
      = some ({ zero with flags := ⟨false, false, false, false⟩, sp := 0xDFFE#16, pc := 0xC003#16 }, 20, []) := by
  decide

/-- `RETI`: the example of R370. -/
theorem test_reti :
    look [] (board StepInput.quiet [(0xDFFC#16, 0x03#8), (0xDFFD#16, 0xC0#8)] [0xD9#8] { zero with sp := 0xDFFC#16 })
      = some ({ zero with sp := 0xDFFE#16, pc := 0xC003#16, ime := true }, 16, []) := by
  decide

/-- `RST 0x28`: the example of R371. -/
theorem test_rst :
    look [0xDFFC#16, 0xDFFD#16] (board StepInput.quiet [] [0xEF#8] { zero with sp := 0xDFFE#16 })
      = some ({ zero with sp := 0xDFFC#16, pc := 0x0028#16 }, 16, [some 0x01#8, some 0xC0#8]) := by
  decide

/-- `NOP`: the example of R391. -/
theorem test_nop :
    look [] (board StepInput.quiet [] [0x00#8] zero)
      = some ({ zero with pc := 0xC001#16 }, 4, []) := by
  decide

/-- `HALT`: the example of R392. -/
theorem test_halt :
    look [] (board StepInput.quiet [] [0x76#8] zero)
      = some ({ zero with halted := true }, 4, []) := by
  decide

/-- `DI`: the example of R394. -/
theorem test_di :
    look [] (board StepInput.quiet [] [0xF3#8] { zero with ime := true })
      = some ({ zero with pc := 0xC001#16 }, 4, []) := by
  decide

/-- `EI`: the example of R395. -/
theorem test_ei :
    look [] (board StepInput.quiet [] [0xFB#8] zero)
      = some ({ zero with pc := 0xC001#16, eiPending := true }, 4, []) := by
  decide
/-! ### Vectors of 95_test_vectors -/

/-- `NOP`: vector S9.1 of 95_test_vectors (both already pending). -/
theorem test_priority :
    look [0xDFFC#16, 0xDFFD#16, 0xFF0F#16] (board StepInput.quiet [(0xFFFF#16, 0x05#8), (0xFF0F#16, 0x05#8)] [0x00#8] { zero with sp := 0xDFFE#16, ime := true })
      = some ({ zero with sp := 0xDFFC#16, pc := 0x0040#16 }, 16, [some 0x01#8, some 0xC0#8, some 0xE4#8]) := by
  decide

/-- `NOP`: vector S9.3 of 95_test_vectors (LCDStat before Timer). -/
theorem test_priority_second :
    look [0xDFFC#16, 0xDFFD#16, 0xFF0F#16] (board StepInput.quiet [(0xFFFF#16, 0x07#8), (0xFF0F#16, 0x06#8)] [0x00#8] { zero with sp := 0xDFFE#16, ime := true })
      = some ({ zero with sp := 0xDFFC#16, pc := 0x0048#16 }, 16, [some 0x01#8, some 0xC0#8, some 0xE4#8]) := by
  decide

/-- `NOP`: vector S9.4 of 95_test_vectors (VBlank pending but not enabled). -/
theorem test_priority_enabled :
    look [0xDFFC#16, 0xDFFD#16, 0xFF0F#16] (board StepInput.quiet [(0xFFFF#16, 0x04#8), (0xFF0F#16, 0x05#8)] [0x00#8] { zero with sp := 0xDFFE#16, ime := true })
      = some ({ zero with sp := 0xDFFC#16, pc := 0x0050#16 }, 16, [some 0x01#8, some 0xC0#8, some 0xE1#8]) := by
  decide

/-- `LDH A, (C)`: vector V1.16 of 95_test_vectors (action group selected). -/
theorem test_buttons :
    look [] (board ⟨0#3, ⟨false, false, false, false, true, false, false, true⟩⟩ [(0xFF00#16, 0x10#8)] [0xF2#8] { zero with c := 0x00#8 })
      = some ({ zero with a := 0xD6#8, c := 0x00#8, pc := 0xC001#16 }, 8, []) := by
  decide

/-- `LD (HL+), A`: vector V1.17 of 95_test_vectors (HL wraps to 0x0000). -/
theorem test_store_wraps :
    look [0xFFFF#16] (board StepInput.quiet [] [0x22#8] { zero with a := 0x5E#8, h := 0xFF#8, l := 0xFF#8 })
      = some ({ zero with a := 0x5E#8, h := 0x00#8, l := 0x00#8, pc := 0xC001#16 }, 8, [some 0x5E#8]) := by
  decide

/-- `LD (HL-), A`: vector V1.19 of 95_test_vectors (L borrows from H). -/
theorem test_store_borrows :
    look [] (board StepInput.quiet [] [0x32#8] { zero with a := 0x01#8, h := 0xC0#8, l := 0x00#8 })
      = some ({ zero with a := 0x01#8, h := 0xBF#8, l := 0xFF#8, pc := 0xC001#16 }, 8, []) := by
  decide

/-- `LD (0xFFFE), SP`: vector V2.3 of 95_test_vectors (low byte to HRAM 0xFFFE, high byte to IE). -/
theorem test_wide_store_edge :
    look [0xFFFE#16, 0xFFFF#16] (board StepInput.quiet [] [0x08#8, 0xFE#8, 0xFF#8] { zero with sp := 0x1234#16 })
      = some ({ zero with sp := 0x1234#16, pc := 0xC003#16 }, 20, [some 0x34#8, some 0x12#8]) := by
  decide

/-- `POP AF`: vector V2.10 of 95_test_vectors (low nibble discarded). -/
theorem test_pop_flags_low :
    look [] (board StepInput.quiet [(0xDFFC#16, 0x0F#8), (0xDFFD#16, 0xC3#8)] [0xF1#8] { zero with flags := ⟨true, true, true, true⟩, sp := 0xDFFC#16 })
      = some ({ zero with a := 0xC3#8, flags := ⟨false, false, false, false⟩, sp := 0xDFFE#16, pc := 0xC001#16 }, 12, []) := by
  decide

/-- `POP BC`: vector V2.12 of 95_test_vectors (reads HRAM then IE; SP wraps). -/
theorem test_pop_wraps :
    look [] (board StepInput.quiet [(0xFFFE#16, 0x77#8), (0xFFFF#16, 0x88#8)] [0xC1#8] { zero with sp := 0xFFFE#16 })
      = some ({ zero with b := 0x88#8, c := 0x77#8, sp := 0x0000#16, pc := 0xC001#16 }, 12, []) := by
  decide

/-- `PUSH BC`: vector V2.13 of 95_test_vectors (writes 0x0000 (cart) then 0xFFFF (IE)). -/
theorem test_push_wraps :
    look [0xFFFF#16] (board StepInput.quiet [] [0xC5#8] { zero with b := 0x11#8, c := 0x22#8, sp := 0x0001#16 })
      = some ({ zero with b := 0x11#8, c := 0x22#8, sp := 0xFFFF#16, pc := 0xC001#16 }, 16, [some 0x22#8]) := by
  decide

/-- `SBC A, A`: vector V3.8 of 95_test_vectors (SBC A, A with carry: 0xFF). -/
theorem test_sbc_same :
    look [] (board StepInput.quiet [] [0x9F#8] { zero with a := 0x44#8, flags := ⟨false, false, false, true⟩ })
      = some ({ zero with a := 0xFF#8, flags := ⟨false, true, true, true⟩, pc := 0xC001#16 }, 4, []) := by
  decide

/-- `DEC D`: vector V3.19 of 95_test_vectors (DEC 0x00, C kept). -/
theorem test_dec_wraps :
    look [] (board StepInput.quiet [] [0x15#8] { zero with d := 0x00#8, flags := ⟨false, false, false, true⟩ })
      = some ({ zero with d := 0xFF#8, flags := ⟨false, true, true, true⟩, pc := 0xC001#16 }, 4, []) := by
  decide

/-- `DAA`: vector V5.2 of 95_test_vectors (N=1, H=1, C=1: subtract 0x66). -/
theorem test_daa_after_subtract :
    look [] (board StepInput.quiet [] [0x27#8] { zero with a := 0x00#8, flags := ⟨false, true, true, true⟩ })
      = some ({ zero with a := 0x9A#8, flags := ⟨false, true, false, true⟩, pc := 0xC001#16 }, 4, []) := by
  decide

/-- `ADD HL, HL`: vector V6.2 of 95_test_vectors (ADD HL, HL: carry out of bit 15). -/
theorem test_add_same_pair :
    look [] (board StepInput.quiet [] [0x29#8] { zero with h := 0x80#8, l := 0x00#8 })
      = some ({ zero with h := 0x00#8, l := 0x00#8, flags := ⟨false, false, false, true⟩, pc := 0xC001#16 }, 8, []) := by
  decide

/-- `ADD SP, -1`: vector V6.9 of 95_test_vectors (e = -1: carries from the low byte). -/
theorem test_displacement_negative :
    look [] (board StepInput.quiet [] [0xE8#8, 0xFF#8] { zero with sp := 0xDFFE#16 })
      = some ({ zero with flags := ⟨false, false, true, true⟩, sp := 0xDFFD#16, pc := 0xC002#16 }, 16, []) := by
  decide

/-- `SRA H`: vector V7.11 of 95_test_vectors (SRA keeps bit 7). -/
theorem test_arithmetic_shift :
    look [] (board StepInput.quiet [] [0xCB#8, 0x2C#8] { zero with h := 0x81#8 })
      = some ({ zero with h := 0xC0#8, flags := ⟨false, false, false, true⟩, pc := 0xC002#16 }, 8, []) := by
  decide

/-- `BIT 7, H`: vector V7.17 of 95_test_vectors (BIT 7, H: Z=1, N=0, H=1, C kept). -/
theorem test_bit_keeps_carry :
    look [] (board StepInput.quiet [] [0xCB#8, 0x7C#8] { zero with h := 0x7F#8, flags := ⟨false, true, false, true⟩ })
      = some ({ zero with h := 0x7F#8, flags := ⟨true, false, true, true⟩, pc := 0xC002#16 }, 8, []) := by
  decide

/-- `SET 0, (HL)`: vector V7.22 of 95_test_vectors (SET 0, (0xFF0F): requests VBlank). -/
theorem test_requests_itself :
    look [0xFF0F#16] (board StepInput.quiet [] [0xCB#8, 0xC6#8] { zero with h := 0xFF#8, l := 0x0F#8 })
      = some ({ zero with h := 0xFF#8, l := 0x0F#8, pc := 0xC002#16 }, 16, [some 0xE1#8]) := by
  decide

/-- `JR +5`: vector V8.9 of 95_test_vectors (target wraps past 0xFFFF). -/
theorem test_jump_wraps :
    look [] (board StepInput.quiet [] [0x18#8, 0x05#8] { zero with pc := 0xFFFC#16 })
      = some ({ zero with pc := 0x0003#16 }, 12, []) := by
  decide

/-- `CALL NZ, 0x4000`: vector V8.13 of 95_test_vectors (not taken: no push). -/
theorem test_call_not_taken :
    look [] (board StepInput.quiet [] [0xC4#8, 0x00#8, 0x40#8] { zero with flags := ⟨true, false, false, false⟩, sp := 0xDFFE#16 })
      = some ({ zero with flags := ⟨true, false, false, false⟩, sp := 0xDFFE#16, pc := 0xC003#16 }, 12, []) := by
  decide

/-- `RET C`: vector V8.16 of 95_test_vectors (RET C not taken). -/
theorem test_return_not_taken :
    look [] (board StepInput.quiet [(0xDFFA#16, 0x00#8), (0xDFFB#16, 0x01#8)] [0xD8#8] { zero with sp := 0xDFFA#16 })
      = some ({ zero with sp := 0xDFFA#16, pc := 0xC001#16 }, 8, []) := by
  decide

/-- `RETI`: vector V8.18 of 95_test_vectors (RETI pops 0x0100, then entry pushes 0x0100 back: SP and memory net unchanged). -/
theorem test_return_then_entry :
    look [0xFF0F#16] (board StepInput.quiet [(0xDFFA#16, 0x00#8), (0xDFFB#16, 0x01#8), (0xFFFF#16, 0x04#8), (0xFF0F#16, 0x04#8)] [0xD9#8] { zero with sp := 0xDFFA#16 })
      = some ({ zero with sp := 0xDFFA#16, pc := 0x0050#16 }, 28, [some 0xE0#8]) := by
  decide

/-- `HALT`: vector V9.3 of 95_test_vectors (line already pending: HALT falls through, ime=0). -/
theorem test_halt_falls_through :
    look [] (board StepInput.quiet [(0xFFFF#16, 0x04#8), (0xFF0F#16, 0x04#8)] [0x76#8] zero)
      = some ({ zero with pc := 0xC001#16 }, 4, []) := by
  decide

/-- `HALT`: vector V9.4 of 95_test_vectors (line pending, ime=1: entry; pushed PC = 0xC001). -/
theorem test_halt_then_entry :
    look [0xDFFC#16, 0xDFFD#16, 0xFF0F#16] (board StepInput.quiet [(0xFFFF#16, 0x04#8), (0xFF0F#16, 0x04#8)] [0x76#8] { zero with ime := true })
      = some ({ zero with sp := 0xDFFC#16, pc := 0x0050#16 }, 16, [some 0x01#8, some 0xC0#8, some 0xE0#8]) := by
  decide

/-- `DI`: vector V9.7 of 95_test_vectors (DI cancels a pending EI). -/
theorem test_di_cancels :
    look [] (board StepInput.quiet [] [0xF3#8] { zero with eiPending := true })
      = some ({ zero with pc := 0xC001#16 }, 4, []) := by
  decide

/-- `EI`: vector V9.9 of 95_test_vectors (no entry in the EI step). -/
theorem test_ei_waits :
    look [] (board StepInput.quiet [(0xFFFF#16, 0x01#8), (0xFF0F#16, 0x01#8)] [0xFB#8] zero)
      = some ({ zero with pc := 0xC001#16, eiPending := true }, 4, []) := by
  decide

/-- `NOP`: vector V9.11 of 95_test_vectors (the step after EI: ime=1, then entry). -/
theorem test_ei_then_entry :
    look [0xDFFC#16, 0xDFFD#16, 0xFF0F#16] (board StepInput.quiet [(0xFFFF#16, 0x01#8), (0xFF0F#16, 0x01#8)] [0x00#8] { zero with eiPending := true })
      = some ({ zero with sp := 0xDFFC#16, pc := 0x0040#16 }, 16, [some 0x01#8, some 0xC0#8, some 0xE0#8]) := by
  decide

/-- `(halted)`: vector V10.1 of 95_test_vectors (halted, nothing pending). -/
theorem test_halted_waits :
    look [] (board StepInput.quiet [] [0x76#8] { zero with halted := true })
      = some ({ zero with halted := true }, 4, []) := by
  decide

/-- `(halted)`: vector V10.2 of 95_test_vectors (wake with ime=0: PC past the HALT). -/
theorem test_halted_wakes :
    look [0xFF0F#16] (board ⟨4#3, Buttons.none⟩ [(0xFFFF#16, 0x04#8)] [0x76#8] { zero with halted := true })
      = some ({ zero with pc := 0xC001#16 }, 4, [some 0xE4#8]) := by
  decide

/-- `(halted)`: vector V10.3 of 95_test_vectors (wake and enter the Timer handler). -/
theorem test_wake_and_entry :
    look [0xDFFC#16, 0xDFFD#16] (board ⟨4#3, Buttons.none⟩ [(0xFFFF#16, 0x04#8)] [0x76#8] { zero with halted := true, ime := true })
      = some ({ zero with sp := 0xDFFC#16, pc := 0x0050#16 }, 16, [some 0x01#8, some 0xC0#8]) := by
  decide

/-- `(halted)`: vector V10.4 of 95_test_vectors (requests merge but do not wake). -/
theorem test_masked_requests :
    look [0xFF0F#16] (board ⟨7#3, Buttons.none⟩ [] [0x76#8] { zero with halted := true })
      = some ({ zero with halted := true }, 4, [some 0xE7#8]) := by
  decide

/-- `(halted)`: vector V10.5 of 95_test_vectors (bits 3 and 4 never wake). -/
theorem test_unserviced_lines_wake :
    look [] (board StepInput.quiet [(0xFFFF#16, 0x18#8), (0xFF0F#16, 0x18#8)] [0x76#8] { zero with halted := true })
      = some ({ zero with halted := true }, 4, []) := by
  decide

/-- `NOP`: vector V10.6 of 95_test_vectors (bits 3 and 4 never serviced). -/
theorem test_unserviced_lines :
    look [] (board StepInput.quiet [(0xFFFF#16, 0x1F#8), (0xFF0F#16, 0x18#8)] [0x00#8] { zero with ime := true })
      = some ({ zero with pc := 0xC001#16, ime := true }, 4, []) := by
  decide

/-- `NOP`: vector V10.8 of 95_test_vectors (the push overwrites IE after the choice). -/
theorem test_entry_overwrites_ie :
    look [0xFFFF#16, 0xFF0F#16] (board StepInput.quiet [(0xFFFF#16, 0x05#8), (0xFF0F#16, 0x01#8)] [0x00#8] { zero with sp := 0x0001#16, ime := true })
      = some ({ zero with sp := 0xFFFF#16, pc := 0x0040#16 }, 16, [some 0x01#8, some 0xE0#8]) := by
  decide

/-- `LD (0xFF0F), A`: vector V10.9 of 95_test_vectors (software request taken in the same step). -/
theorem test_software_request :
    look [0xDFFC#16, 0xDFFD#16] (board StepInput.quiet [(0xFFFF#16, 0x02#8)] [0xEA#8, 0x0F#8, 0xFF#8] { zero with a := 0x02#8, ime := true })
      = some ({ zero with a := 0x02#8, sp := 0xDFFC#16, pc := 0x0048#16 }, 28, [some 0x03#8, some 0xC0#8]) := by
  decide

/-- `LD (0xFF0F), A`: vector V10.10 of 95_test_vectors (software cancel). -/
theorem test_software_cancel :
    look [0xFF0F#16] (board StepInput.quiet [(0xFFFF#16, 0x04#8), (0xFF0F#16, 0x04#8)] [0xEA#8, 0x0F#8, 0xFF#8] { zero with a := 0x00#8, ime := true })
      = some ({ zero with a := 0x00#8, pc := 0xC003#16, ime := true }, 16, [some 0xE0#8]) := by
  decide

/-- `JP 0xD000`: vector V10.11 of 95_test_vectors (pushed PC is the jump target). -/
theorem test_entry_after_jump :
    look [0xDFFD#16, 0xFF0F#16] (board StepInput.quiet [(0xFFFF#16, 0x01#8), (0xFF0F#16, 0x01#8)] [0xC3#8, 0x00#8, 0xD0#8] { zero with ime := true })
      = some ({ zero with sp := 0xDFFC#16, pc := 0x0040#16 }, 28, [some 0xD0#8, some 0xE0#8]) := by
  decide

/-- `LDH A, (0x00)`: vector V11.4 of 95_test_vectors. -/
theorem test_button_register :
    look [] (board ⟨0#3, ⟨false, false, false, true, false, false, false, true⟩⟩ [(0xFF00#16, 0x00#8)] [0xF0#8, 0x00#8] zero)
      = some ({ zero with a := 0xC7#8, pc := 0xC002#16 }, 12, []) := by
  decide
/-! ### The engine: failures, STOP and the EI delay -/

/-- The illegal bytes end the step with a DecodeFailure, and neither the requests nor the interrupt are looked at
(vectors S4.3 to S4.13). -/
theorem test_illegal_bytes :
    [0xD3#8, 0xDB#8, 0xDD#8, 0xE3#8, 0xE4#8, 0xEB#8, 0xEC#8, 0xED#8, 0xF4#8, 0xFC#8, 0xFD#8].all (fun b =>
      decide (faultOf (step (board ⟨4#3, Buttons.none⟩ [(0xFFFF#16, 0x01#8), (0xFF0F#16, 0x01#8)] [b]
        { zero with a := 0x11#8, ime := true })) = some (.decodeFailure b false 0xC000#16))) = true := by
  decide

/-- `RST 0x38` and `SWAP A` outside `P_DECODE_SET` (vectors S4.2 and S4.14). -/
theorem test_left_out :
    faultOf (step (without [(false, 0xFF#8)] (quietly [0xFF#8]))) = some (.decodeFailure 0xFF#8 false 0xC000#16) ∧
    faultOf (step (without [(true, 0x37#8)] (quietly [0xCB#8, 0x37#8]))) = some (.decodeFailure 0x37#8 true 0xC000#16) ∧
    faultOf (step (without [(true, 0xFF#8)] (quietly [0xFF#8]))) = none := by
  decide

/-- `STOP`: the example of R393 (vector V9.5). -/
theorem test_stop : refusalOf (step (quietly [0x10#8, 0x00#8])) = some (.unmodelled 0x10#8 0xC000#16) := by decide

/-- Without the delay, EI acts in its own step and the entry follows (vector V9.10). -/
theorem test_ei_at_once :
    look [0xDFFC#16, 0xDFFD#16, 0xFF0F#16] (undelayed (board StepInput.quiet [(0xFFFF#16, 0x01#8), (0xFF0F#16, 0x01#8)] [0xFB#8] zero))
      = some ({ zero with sp := 0xDFFC#16, pc := 0x0040#16 }, 16, [some 0x01#8, some 0xC0#8, some 0xE0#8]) := by
  decide

/-- In a step that enters a handler the port `cycles` carries the base cost, and the step reports 12 more (60_exceptions R401, steps 5
and 9; vector S9.1). -/
theorem test_entry_cost :
    (after (board StepInput.quiet [(0xFFFF#16, 0x05#8), (0xFF0F#16, 0x05#8)] [0x00#8] { zero with ime := true })).map (fun t =>
      (t.ports.cycles, t.ports.surcharge, t.reported)) = some (4, 12, 16) := by
  decide

/-- `P_CYCLES` with a row of its own for RET NZ and one for HALT, and the default elsewhere (00_scope R12; 70_reset R452). -/
theorem test_cost_table :
    let s := costing [⟨369, 30, 7⟩, ⟨392, 9, 0⟩] (quietly [0xC0#8])
    (after s).map State.reported = some 30 ∧
    (after { s with cpu := { s.cpu with flags := ⟨true, false, false, false⟩ } }).map State.reported = some 7 ∧
    (after { s with cpu := { s.cpu with halted := true } }).map State.reported = some 9 ∧
    (after (costing [⟨369, 30, 7⟩] (quietly [0xC9#8]))).map State.reported = some 16 := by
  decide

/-- Rules of opcode_table.json, from each family. -/
theorem test_rules :
    ([[0x40#8], [0x3E#8, 0#8], [0x08#8, 0#8, 0#8], [0xF1#8], [0x80#8], [0x27#8], [0x39#8], [0x07#8], [0xCB#8, 0x37#8], [0xCB#8, 0xFE#8],
      [0xC3#8, 0#8, 0#8], [0xFF#8], [0x76#8], [0xFB#8]].map fun b =>
        match decode b with
        | .ok (i, _) => i.rule
        | .error _ => 0) = [201, 202, 242, 247, 261, 289, 311, 321, 337, 346, 361, 371, 392, 395] := by
  decide

/-- The value of `BIT 7, A` and of `JP NZ, nn`, and none for an illegal byte (30_encoding R178). -/
theorem test_value :
    decodeValue true 0x7F#8 = some ⟨341, [.bbb 7#3, .sss (.reg .a)]⟩ ∧ decodeValue false 0xC2#8 = some ⟨362, [.cc .nz]⟩ ∧
    decodeValue false 0xD3#8 = none := by
  decide

/-- A read of IF gives `0xE0 | if_` (vector V1.9). -/
theorem test_read_if :
    look [] (board StepInput.quiet [(0xFF0F#16, 0x05#8)] [0xFA#8, 0x0F#8, 0xFF#8] zero)
      = some ({ zero with a := 0xE5#8, pc := 0xC003#16 }, 16, []) := by
  decide

/-- A read of 0xFE00 takes the collaborator's answer and is seen by it (vector V11.8); so is a store to 0x8000 (V11.9). -/
theorem test_external :
    (after (answering [0x6D#8] (quietly [0xFA#8, 0x00#8, 0xFE#8]))).map (fun t => (t.cpu.a, t.ports.ext))
      = some (0x6D#8, [.read .oam 0xFE00#16]) ∧
    (after (board StepInput.quiet [] [0xEA#8, 0x00#8, 0x80#8] { zero with a := 0x12#8 })).map (fun t => t.ports.ext)
      = some [.write .vram 0x8000#16 0x12#8] := by
  decide

/-- A store to 0xFF50 ends the overlay: the fetch is from the image, and 0x0000 then reads the cartridge (vector V11.1). -/
theorem test_boot_overlay :
    (after (booted [(0, 0xE0#8), (1, 0x50#8)] 0x0000#16)).map (fun t => (t.cpu.pc, t.bus.bootActive, peek 0x0000#16 t))
      = some (0x0002#16, false, some 0x3C#8) := by
  decide

/-- `withFetchWord` places the word of a row where the next step runs it, whatever the engine was doing. -/
theorem test_with_fetch_word :
    (after ((board StepInput.quiet [] [] { zero with halted := true, pc := 0x0100#16 }).withFetchWord 8 0x04)).map (fun t => t.cpu.b)
      = some 0x01#8 ∧
    decodeTableWord 16 0x37CB = some (.swapR (.reg .a)) ∧ decodeTableWord 8 0x01 = some (.ldRrNn (.pair .bc) 0x0000#16) ∧
    decodeTableWord 8 0xD3 = none := by
  decide

/-! ### The cartridge -/

/-- The worked examples of MBC1 and MBC5: the first byte of bank k is 0x40 + k (95_test_vectors 1.5, 1.6, 2.10). -/
theorem test_rom_banks :
    bankSeen (.mbc1 ⟨false, 0#5, 0#2, 0#1⟩) = 0x41#8 ∧ bankSeen (.mbc1 ⟨false, 5#5, 0#2, 0#1⟩) = 0x45#8 ∧
    bankSeen (.mbc1 ⟨false, 0#5, 1#2, 0#1⟩) = 0x41#8 ∧ bankSeen (.mbc5 ⟨false, 0#8, 0#1, 0#4⟩) = 0x40#8 ∧
    bankSeen (.mbc5 ⟨false, 7#8, 0#1, 0#4⟩) = 0x47#8 ∧ bankSeen (.mbc5 ⟨false, 1#8, 1#1, 0#4⟩) = 0x41#8 ∧
    bankSeen (.mbc2 ⟨false, 3#4⟩) = 0x43#8 ∧ bankSeen (.mbc2 ⟨false, 0#4⟩) = 0x41#8 ∧
    bankSeen (.mbc3 ⟨false, 0#7, 0#2, false, 0#3, midnight⟩) = 0x41#8 := by
  decide

/-- A write of 0x1A enables nothing; the sentinel reads, and the buffer keeps its byte (95_test_vectors 1.8). -/
theorem test_disabled_ram :
    let c : Cart := ⟨[(0, 0x5C#8)], (Mbc.mbc1 ⟨false, 0#5, 0#2, 0#1⟩).write 0x0000#16 0x1A#8⟩
    cartReadRam (sized 0x2000) c 0xA000#16 = some 0x00#8 ∧ (cartWriteRam (sized 0x2000) c 0xA000#16 0x77#8).ram = c.ram := by
  decide

/-- MBC2 keeps a nibble, in 16 copies; MBC1 in mode 1 and MBC3 reach their RAM banks; a clock register answers the last byte
written under `frozen` (95_test_vectors 1.7, 2.10). -/
theorem test_ram_banks :
    cartReadRam (sized 512) (cartWriteRam (sized 512) ⟨[], .mbc2 ⟨true, 1#4⟩⟩ 0xA205#16 0xF7#8) 0xA005#16 = some 0x07#8 ∧
    (cartWriteRam (sized 0x8000) ⟨[], .mbc1 ⟨true, 0#5, 1#2, 1#1⟩⟩ 0xA000#16 0x99#8).ram = [(0x2000, 0x99#8)] ∧
    (cartWriteRam (sized 0x8000) ⟨[], .mbc3 ⟨true, 1#7, 2#2, false, 0#3, midnight⟩⟩ 0xA000#16 0x66#8).ram = [(0x4000, 0x66#8)] ∧
    cartReadRam { sized 0x2000 with rtcModel := .frozen } ⟨[], .mbc3 ⟨true, 1#7, 0#2, true, 3#3, midnight⟩⟩ 0xA000#16
      = some 0x00#8 ∧
    cartReadRam (sized 0x2000) ⟨[], .mbc3 ⟨true, 1#7, 0#2, true, 3#3, midnight⟩⟩ 0xA000#16 = none := by
  decide

/-- The bank registers of each variant at both ends of each range (20_memory R130, R135, R138 to R140, R143). -/
theorem test_bank_registers :
    [0x0000#16, 0x1FFF#16, 0x2000#16, 0x3FFF#16, 0x4000#16, 0x5FFF#16, 0x6000#16, 0x7FFF#16].map
        (fun a => (Mbc.mbc1 ⟨false, 0#5, 0#2, 0#1⟩).write a 0x0A#8)
      = [.mbc1 ⟨true, 0#5, 0#2, 0#1⟩, .mbc1 ⟨true, 0#5, 0#2, 0#1⟩, .mbc1 ⟨false, 10#5, 0#2, 0#1⟩, .mbc1 ⟨false, 10#5, 0#2, 0#1⟩,
         .mbc1 ⟨false, 0#5, 2#2, 0#1⟩, .mbc1 ⟨false, 0#5, 2#2, 0#1⟩, .mbc1 ⟨false, 0#5, 0#2, 0#1⟩, .mbc1 ⟨false, 0#5, 0#2, 0#1⟩] ∧
    [0x1FFF#16, 0x2000#16, 0x3FFF#16, 0x4000#16, 0x7FFF#16].map (fun a => (Mbc.mbc2 ⟨false, 1#4⟩).write a 0x0A#8)
      = [.mbc2 ⟨true, 1#4⟩, .mbc2 ⟨false, 10#4⟩, .mbc2 ⟨false, 10#4⟩, .mbc2 ⟨false, 1#4⟩, .mbc2 ⟨false, 1#4⟩] ∧
    [0x07#8, 0x08#8, 0x0C#8, 0x0D#8].map (fun v => (Mbc.mbc3 ⟨false, 1#7, 0#2, true, 1#3, midnight⟩).write 0x4000#16 v)
      = [.mbc3 ⟨false, 1#7, 3#2, false, 1#3, midnight⟩, .mbc3 ⟨false, 1#7, 0#2, true, 0#3, midnight⟩,
         .mbc3 ⟨false, 1#7, 0#2, true, 4#3, midnight⟩, .mbc3 ⟨false, 1#7, 1#2, false, 1#3, midnight⟩] ∧
    (Mbc.mbc3 ⟨false, 1#7, 0#2, true, 1#3, midnight⟩).write 0x6000#16 0x01#8 = .mbc3 ⟨false, 1#7, 0#2, true, 1#3, midnight⟩ ∧
    [0x1FFF#16, 0x2FFF#16, 0x3000#16, 0x3FFF#16, 0x5FFF#16, 0x6000#16].map (fun a => (Mbc.mbc5 ⟨false, 1#8, 0#1, 0#4⟩).write a 0x0B#8)
      = [.mbc5 ⟨false, 1#8, 0#1, 0#4⟩, .mbc5 ⟨false, 11#8, 0#1, 0#4⟩, .mbc5 ⟨false, 1#8, 1#1, 0#4⟩, .mbc5 ⟨false, 1#8, 1#1, 0#4⟩,
         .mbc5 ⟨false, 1#8, 0#1, 11#4⟩, .mbc5 ⟨false, 1#8, 0#1, 0#4⟩] := by
  decide

/-- The factory's failures (20_memory R120, R121, R122). -/
theorem test_factory_failures :
    failureOf (launch 0x42#8 0x00#8 none) = some (.unknownType 0x42#8) ∧
    failureOf (launch 0x03#8 0x09#8 none) = some (.unknownRamSize 0x09#8) ∧
    failureOf { launch 0x00#8 0x00#8 none with rom := [] } = some (.romTooShort 0) := by
  decide +kernel

/-! ### Witnesses: what meets the hypotheses of each statement -/

theorem witness_DecodeEncode : (Instr.bitBR 7#3 (.reg .a)).wellFormed = true ∧ (Instr.pushRr (.pair .hl)).wellFormed = true := by
  decide

theorem witness_EncodeDecode : decode [0xCB#8, 0xCB#8, 0x00#8] = .ok (.setBR 1#3 (.reg .e), [0x00#8]) := rfl

/-- Both ends of the echo. -/
theorem witness_EchoAlias :
    (0 < 0x1E00 ∧ peek 0xE000#16 (memWrite 0xC000#16 0x5A#8 State.reset) = some 0x5A#8) ∧
    (0x1DFF < 0x1E00 ∧ peek 0xDDFF#16 (memWrite 0xFDFF#16 0x5A#8 State.reset) = some 0x5A#8) := by
  decide

/-- Both ends of each range and the two registers; the cartridge RAM of each variant, open; and a clock register under `frozen`. -/
theorem witness_ReadAfterWrite :
    [0xC000#16, 0xDFFF#16, 0xE000#16, 0xFDFF#16, 0xFF80#16, 0xFFFE#16, 0xFFFF#16].all (fun a =>
      keeps State.reset 1 a && decide ((memRead a (memWrite a 0xA5#8 State.reset)).1 = 0xA5#8)) = true ∧
    [0xBFFF#16, 0xFE00#16, 0xFF7F#16].all (fun a => !keeps State.reset 1 a) = true ∧
    openRams.all (fun mbc => [0xA000#16, 0xBFFF#16].all fun a =>
      let s := { State.reset with cart := ⟨[], mbc⟩, params := sized 512 }
      keeps s 1 a && decide ((memRead a (memWrite a 0xA5#8 s)).1 = 0xA5#8 &&& keptBits s a)) = true ∧
    [0#3, 4#3].all (fun sel =>
      let s := { State.reset with
        cart := ⟨[], .mbc3 ⟨true, 1#7, 0#2, true, sel, midnight⟩⟩, params := { sized 0 with rtcModel := .frozen } }
      decide ((memRead 0xA000#16 (memWrite 0xA000#16 0xA5#8 s)).1 = 0xA5#8)) = true ∧
    (memRead 0xFF0F#16 (memWrite 0xFF0F#16 0xF2#8 State.reset)).1 = 0xF2#8 ∧
    (memRead 0xFF00#16 (memWrite 0xFF00#16 0xD0#8 State.reset)).1 = 0xDF#8 := by
  decide

/-- A store to WRAM touches its echo and nothing beside it. -/
theorem witness_WriteFrame :
    touches State.reset 0xC000#16 0xC001#16 = false ∧ touches State.reset 0xC000#16 0xE000#16 = true ∧
    touches State.reset 0x2000#16 0x3FFF#16 = false ∧ touches State.reset 0x2000#16 0x4000#16 = true := by
  decide

/-- Both ends of each range of SP, the two ends of the address space among them; the cartridge RAM of each variant, and SP between it
and WRAM. -/
theorem witness_StackRoundTrip :
    [0xC002#16, 0xE000#16, 0xE001#16, 0xFE00#16, 0xFF82#16, 0xFFFF#16, 0x0000#16].all (fun sp =>
      keeps State.reset 2 (sp - 1#16) && keeps State.reset 2 (sp - 2#16) &&
        decide ((pop16 (push16 0x1234#16 (State.reset.setSp sp))).1 = 0x1234#16)) = true ∧
    [0xC001#16, 0xFE01#16, 0xFF81#16, 0x0001#16].all (fun sp =>
      !(keeps State.reset 2 (sp - 1#16) && keeps State.reset 2 (sp - 2#16))) = true ∧
    openRams.all (fun mbc => [0xA002#16, 0xC000#16, 0xC001#16].all fun sp =>
      let s := { (State.reset.setSp sp) with cart := ⟨[], mbc⟩, params := sized 512 }
      keeps s 2 (sp - 1#16) && keeps s 2 (sp - 2#16) &&
        decide ((pop16 (push16 0x1234#16 s)).1 = (0x12#8 &&& keptBits s (sp - 1#16)) ++ (0x34#8 &&& keptBits s (sp - 2#16)))) = true := by
  decide

/-- Both ends of both ROM windows. -/
theorem witness_RomWindows :
    [0x0000#16, 0x3FFF#16, 0x4000#16, 0x7FFF#16].map (romOffset (sized 0) (.mbc1 ⟨false, 2#5, 0#2, 0#1⟩))
      = [0x0000, 0x3FFF, 0x8000, 0xBFFF] ∧ (0x7FFF#16).toNat ≤ 0x7FFF := by
  decide

theorem witness_BankRegisters : (0x0000#16).toNat ≤ 0x7FFF ∧ (0x7FFF#16).toNat ≤ 0x7FFF := by decide

/-- Each case of each variant's RAM window is met, the first and the last clock register among them. -/
theorem witness_RamWindow :
    (sized 0).ramLen = 0 ∧ (sized 0x2000).ramLen ≠ 0 ∧ (0x7FFF#16).toNat ≤ 0x7FFF ∧
    ramTarget (sized 0x2000) .romOnly 0xBFFF#16 = .cell 0x1FFF ∧ ramTarget (sized 0) .romOnly 0xA000#16 = .closed ∧
    ramTarget (sized 0x8000) (.mbc1 ⟨true, 0#5, 3#2, 1#1⟩) 0xBFFF#16 = .cell 0x7FFF ∧
    ramTarget (sized 0x8000) (.mbc1 ⟨true, 0#5, 3#2, 0#1⟩) 0xBFFF#16 = .cell 0x1FFF ∧
    ramTarget (sized 512) (.mbc2 ⟨true, 1#4⟩) 0xA200#16 = .nibble 0 ∧
    ramTarget (sized 0) (.mbc3 ⟨true, 1#7, 0#2, true, 4#3, midnight⟩) 0xA000#16 = .clock 4#3 ∧
    ramTarget (sized 0x20000) (.mbc5 ⟨true, 1#8, 0#1, 15#4⟩) 0xBFFF#16 = .cell 0x1FFFF ∧
    ramTarget (sized 0x20000) (.mbc5 ⟨false, 1#8, 0#1, 15#4⟩) 0xBFFF#16 = .closed ∧
    (midnight.write 0#3 0x3B#8).read 0#3 = 0x3B#8 ∧ (midnight.write 4#3 0xC1#8).read 4#3 = 0xC1#8 ∧
    (midnight.write 4#3 0xC1#8).read 3#3 = 0x00#8 := by
  decide

theorem witness_BootOverlay : ∃ t, step (booted [(0, 0x00#8)] 0x0000#16) = .next t ∧ t.bus.bootActive = true :=
  next_of_after (p := fun t => t.bus.bootActive) (by decide)

/-- A step of each variant. -/
theorem witness_Configuration :
    [.romOnly, .mbc1 ⟨true, 0#5, 0#2, 0#1⟩, .mbc2 ⟨true, 1#4⟩, .mbc3 ⟨true, 1#7, 0#2, false, 0#3, midnight⟩,
      .mbc5 ⟨true, 1#8, 0#1, 0#4⟩].all (fun mbc => (after { quietly [0x00#8] with cart := ⟨[], mbc⟩ }).isSome) = true := by
  decide

theorem atReset_of_constructs {x : Launch} (h : constructs x = true) : ∃ s, AtReset x s := by
  unfold constructs built at h
  split at h
  · exact ⟨_, ‹_›⟩
  · cases h

/-- A session of each variant, with a boot image and without, and with a save that fits and one that does not. -/
theorem witness_ResetValues :
    [launch 0x00#8 0x00#8 none, launch 0x03#8 0x02#8 none, launch 0x06#8 0x00#8 none, launch 0x10#8 0x03#8 none,
      launch 0x1B#8 0x02#8 none].all constructs = true ∧
    constructs { launch 0x00#8 0x00#8 none with boot := some [0x00#8] } = true ∧
    (built (launch 0x06#8 0x00#8 (some (List.replicate 512 0xF7#8)))).map (fun s => s.cart.ram.get 511) = some (some 0x07#8) ∧
    (built (launch 0x06#8 0x00#8 (some [0xF7#8]))).map (fun s => s.cart.ram) = some [] ∧
    (built { launch 0x06#8 0x00#8 (some (List.replicate 512 0xF7#8)) with collaborator := false }).map (fun s => s.cart.ram) = some [] := by
  decide +kernel

/-- A construction that succeeds, and one for each failure. -/
theorem witness_Factory :
    constructs (launch 0x06#8 0x09#8 none) = true ∧ constructs (launch 0x03#8 0x04#8 none) = true ∧
    failureOf (launch 0x04#8 0x00#8 none) = some (.unknownType 0x04#8) := by
  decide +kernel

/-- With battery-backed RAM and a collaborator, without a battery, without a RAM buffer, and with a save of each length. -/
theorem witness_SaveGame :
    let p : Params := { sized 2 with battery := true, collaborator := true }
    p.battery = true ∧ p.collaborator = true ∧ p.ramLen ≠ 0 ∧ [0x12#8, 0x34#8].length = p.ramLen ∧ [0x12#8].length ≠ p.ramLen ∧
    dumpSavegame p (loadSavegame p (some [0x12#8, 0x34#8]) ⟨[], .romOnly⟩) = some [0x12#8, 0x34#8] ∧
    dumpSavegame { p with battery := false } ⟨[], .romOnly⟩ = none ∧ dumpSavegame { p with ramLen := 0 } ⟨[], .romOnly⟩ = none := by
  decide

/-- A failing step, unprefixed and prefixed, and a refused one; the widths of the skips; an illegal byte fetched from VRAM: its answer is
spent, and the input with it. -/
theorem witness_HostMoves :
    (let s := quietly [0xD3#8]
     faultOf (step s) = some (.decodeFailure 0xD3#8 false 0xC000#16) ∧ (hostSkip (step s) s).map (fun t => t.cpu.pc) = some 0xC001#16) ∧
    (let s := without [(true, 0x37#8)] (quietly [0xCB#8, 0x37#8])
     faultOf (step s) = some (.decodeFailure 0x37#8 true 0xC000#16) ∧ (hostSkip (step s) s).map (fun t => t.cpu.pc) = some 0xC002#16) ∧
    (let s := quietly [0x10#8, 0x00#8]
     refusalOf (step s) = some (.unmodelled 0x10#8 0xC000#16) ∧ (hostSkip (step s) s).map (fun t => t.cpu.pc) = some 0xC002#16) ∧
    (let s := answering [0xD3#8, 0x04#8] { quietly [] with cpu := { zero with pc := 0x8000#16 } }
     s.ports.inputs = [StepInput.quiet] ∧
     (hostSkip (step s) s).map (fun t => (t.cpu.pc, t.ports.bytes, t.ports.inputs)) = some (0x8001#16, [0x04#8], []) ∧
     ((hostSkip (step s) s).bind after).map (fun t => (t.cpu.pc, t.cpu.b)) = some (0x8002#16, 0x01#8)) := by
  decide

/-- The exit loop; a run that ends; one that is faulted; two that meet a form left out; STOP; and the two ways to hang. -/
theorem witness_ExitLoop :
    (let s := quietly [0x18#8, 0xFE#8]
     atExit 0xC000#16 s = true ∧ exitPlaced 0xC000#16 (takeInput s) = true ∧ s.cpu.ime = false ∧ s.cpu.eiPending = false ∧
       s.params.decodeOmits.contains (false, 0x18#8) = false ∧ runFrom 3 0xC000#16 s = .ended s) ∧
    (atExit 0xC001#16 (quietly [0x00#8]) = false ∧ (after (quietly [0x00#8])).isSome = true ∧
      (after (quietly [0x00#8])).map (fun t => decide (runFrom 2 0xC001#16 (quietly [0x00#8]) = .ended t)) = some true) ∧
    (let s := quietly [0xD3#8]
     peek s.cpu.pc (takeInput s) = some 0xD3#8 ∧ runFrom 1 0xD000#16 s = .faulted (.decodeFailure 0xD3#8 false 0xC000#16)) ∧
    (let s := without [(false, 0xFF#8)] (quietly [0xFF#8])
     peek s.cpu.pc (takeInput s) = some 0xFF#8 ∧ s.params.decodeOmits.contains (false, 0xFF#8) = true ∧
       runFrom 1 0xD000#16 s = .refused (.leftOut 0xFF#8 false 0xC000#16)) ∧
    (let s := without [(true, 0x37#8)] (quietly [0xCB#8, 0x37#8])
     peek s.cpu.pc (takeInput s) = some 0xCB#8 ∧ peek (s.cpu.pc + 1#16) (takeInput s) = some 0x37#8 ∧
       s.params.decodeOmits.contains (true, 0x37#8) = true ∧ runFrom 1 0xD000#16 s = .refused (.leftOut 0x37#8 true 0xC000#16)) ∧
    (let s := quietly [0x10#8]
     peek s.cpu.pc (takeInput s) = some 0x10#8 ∧ s.params.decodeOmits.contains (false, 0x10#8) = false) ∧
    (let s := board StepInput.quiet [(0xFFFF#16, 0x18#8)] [] { zero with halted := true }
     s.bus.ie &&& 0x07#8 = 0x00#8) ∧
    (let s := board StepInput.quiet [(0xFFFF#16, 0x07#8)] [] { zero with halted := true }
     s.bus.ie &&& s.bus.iflag.setWidth 8 &&& 0x07#8 = 0x00#8 ∧ 1 ≤ s.ports.inputs.length ∧
       (s.ports.inputs.take 1).all (fun i => decide (i.req = 0#3)) = true) := by
  decide

theorem witness_ExitLoop_launch : ∃ s, AtReset (launch 0x00#8 0x00#8 none) s := atReset_of_constructs (by decide +kernel)

theorem witness_StepInvariant : (quietly [0x34#8]).inv = true ∧ ∃ t, step (quietly [0x34#8]) = .next t ∧ t.inv = true :=
  ⟨by decide, next_of_after (p := State.inv) (by decide)⟩

/-- Without a boot image and with one. -/
theorem witness_ConstructInvariant : (∃ s, AtReset (launch 0x10#8 0x03#8 none) s) ∧ (built (launch 0x10#8 0x03#8 none)).map State.inv = some true ∧
    ∃ s, AtReset { launch 0x00#8 0x00#8 none with boot := some [0x00#8] } s :=
  ⟨atReset_of_constructs (by decide +kernel), by decide +kernel, atReset_of_constructs (by decide +kernel)⟩

theorem witness_StepRunsDecoded :
    let s := quietly [0x06#8, 0x5A#8]
    s.cpu.halted = false ∧ decode (fetchBytes s.cpu.pc (takeInput s)).1 = .ok (.ldRN (.reg .b) 0x5A#8, []) ∧
      s.params.decodeOmits.contains (opcodePair (fetchBytes s.cpu.pc (takeInput s)).1) = false :=
  ⟨rfl, rfl, rfl⟩

/-- An instruction of each length, the longest over the end of the address space. -/
theorem witness_StepRunsPlaced :
    [(Instr.nop, 0xC000#16), (.setBR 1#3 (.reg .e), 0xFF80#16), (.jpNn 0x0000#16, 0xFFFD#16)].all (fun c =>
      let s := board StepInput.quiet [] (encode c.1) { zero with pc := c.2 }
      c.1.wellFormed && !s.cpu.halted && !s.params.decodeOmits.contains (opcodePair (encode c.1)) &&
        (List.range (encode c.1).length).all fun k =>
          decide (peek (s.cpu.pc + BitVec.ofNat 16 k) (takeInput s) = (encode c.1)[k]?)) = true := by
  decide

/-- An entry in HRAM, with every field fixed but the cartridge's and the configuration, and one that fixes its code and the engine alone. -/
theorem witness_StepRunsPlaced_entry :
    let s := board StepInput.quiet [] [0xCB#8, 0xCB#8, 0x00#8] { zero with pc := 0xFF80#16, c := 0x5A#8 }
    AtEntry 0xFF80#16 (.halted false :: codeAt 0xFF80#16 (encode (.setBR 1#3 (.reg .e)) ++ [0x00#8]) ++
      [.reg .c 0x5A#8, .sp s.cpu.sp, .ime false, .ie 0x00#8, .mbc s.cart.mbc, .params s.params, .inputs [StepInput.quiet],
        .answers []]) s ∧
    AtEntry 0xFF80#16 (.halted false :: codeAt 0xFF80#16 (encode (.setBR 1#3 (.reg .e)) ++ []) ++ []) s ∧
    (Instr.setBR 1#3 (.reg .e)).wellFormed = true ∧
    s.params.decodeOmits.contains (opcodePair (encode (.setBR 1#3 (.reg .e)))) = false := by
  refine ⟨⟨by decide, rfl, ?_⟩, ⟨by decide, rfl, ?_⟩, rfl, rfl⟩ <;> repeat' refine List.forall_mem_cons.2 ⟨?_, ?_⟩
  all_goals first
    | exact rfl
    | exact fun _ => rfl
    | exact List.forall_mem_nil _

theorem witness_EngineStages : (quietly [0x00#8]).ports.inputs = [StepInput.quiet] ∧ State.reset.ports.inputs = [] := ⟨rfl, rfl⟩

/-- An illegal byte, a pair left out, and a prefixed pair left out. -/
theorem witness_DecodeFailures :
    (let s := quietly [0xD3#8]
     s.cpu.halted = false ∧ peek s.cpu.pc (takeInput s) = some 0xD3#8) ∧
    (let s := without [(false, 0xFF#8)] (quietly [0xFF#8])
     peek s.cpu.pc (takeInput s) = some 0xFF#8 ∧ s.params.decodeOmits.contains (false, 0xFF#8) = true) ∧
    (let s := without [(true, 0x37#8)] (quietly [0xCB#8, 0x37#8])
     peek s.cpu.pc (takeInput s) = some 0xCB#8 ∧ peek (s.cpu.pc + 1#16) (takeInput s) = some 0x37#8 ∧
       s.params.decodeOmits.contains (true, 0x37#8) = true) := by
  decide

theorem witness_StopRefused : ∃ u, nextInstr (takeInput (quietly [0x10#8, 0x5A#8])) = .ok (.stop 0x5A#8, u) := ⟨_, rfl⟩

/-- Halted with a line pending after the merge, and with none. -/
theorem witness_HaltedStep :
    [(0x04#8, 4#3), (0x00#8, 4#3)].map (fun c =>
        let s := board ⟨c.2, Buttons.none⟩ [(0xFFFF#16, c.1)] [] { zero with halted := true }
        (s.cpu.halted, s.ports.inputs, (after s).map fun t => t.cpu.pc))
      = [(true, [⟨4#3, Buttons.none⟩], some 0xC001#16), (true, [⟨4#3, Buttons.none⟩], some 0xC000#16)] ∧
    (quietly []).params.cycles = [] := by
  decide

/-- The instruction after an EI, a DI after an EI, an EI with the delay, and an EI without. -/
theorem witness_EnableDelay :
    (∃ u, nextInstr (takeInput (board StepInput.quiet [] [0x00#8] { zero with eiPending := true })) = .ok (.nop, u)) ∧
    (∃ u, nextInstr (takeInput (board StepInput.quiet [] [0xF3#8] { zero with eiPending := true })) = .ok (.di, u)) ∧
    ((quietly [0xFB#8]).params.eiDelay = true ∧ ∃ u, nextInstr (takeInput (quietly [0xFB#8])) = .ok (.ei, u)) ∧
    ((undelayed (quietly [0xFB#8])).params.eiDelay = false ∧
      ∃ u, nextInstr (takeInput (undelayed (quietly [0xFB#8]))) = .ok (.ei, u)) :=
  ⟨⟨_, rfl⟩, ⟨_, rfl⟩, ⟨rfl, _, rfl⟩, ⟨rfl, _, rfl⟩⟩

theorem witness_RequestIsolation :
    let s := board ⟨1#3, Buttons.none⟩ [] [0x04#8] zero
    s.ports.inputs = [⟨1#3, Buttons.none⟩] ∧ (∃ u, nextInstr (takeInput s) = .ok (.incR (.reg .b), u)) ∧
      s.cpu.ime = false ∧ s.cpu.eiPending = false ∧ ∃ t, step s = .next t :=
  ⟨rfl, ⟨_, rfl⟩, rfl, rfl, (next_of_after (p := fun _ => true) (by decide)).imp fun _ h => h.1⟩

/-- EI with the delay. -/
theorem witness_RequestIsolation_ei :
    let s := board ⟨1#3, Buttons.none⟩ [] [0xFB#8] zero
    (∃ u, nextInstr (takeInput s) = .ok (.ei, u)) ∧ s.params.eiDelay = true ∧ ∃ t, step s = .next t :=
  ⟨⟨_, rfl⟩, rfl, (next_of_after (p := fun _ => true) (by decide)).imp fun _ h => h.1⟩

/-- The evaluator's premise. -/
theorem witness_InterruptEntry : (takeInput (quietly [])).ports.surcharge = 0 := rfl

/-- A value of a pair, with a field of each kind. -/
theorem witness_ValidEncodings :
    decodeValue false 0x41#8 = some ⟨201, [.ddd (.reg .b), .sss (.reg .c)]⟩ ∧ decodeValue false 0x33#8 = some ⟨312, [.rr .sp]⟩ ∧
    decodeValue false 0xE5#8 = some ⟨245, [.qq (.pair .hl)]⟩ ∧ decodeValue false 0xDA#8 = some ⟨362, [.cc .c]⟩ ∧
    decodeValue false 0xFF#8 = some ⟨371, [.ttt 7#3]⟩ ∧ decodeValue true 0xFE#8 = some ⟨346, [.bbb 7#3]⟩ := by
  decide

theorem witness_Completion : ∀ n, Instr.nop ≠ .stop n := by
  intro n h
  cases h

/-- A register that INC B does not write, and an address that its store does not reach where it stores to WRAM. -/
theorem witness_RegisterFrame : (∃ t, exec (.incR (.reg .b)) State.reset = .next t) ∧ Reg.a ∉ dests (.incR (.reg .b)) :=
  ⟨⟨_, rfl⟩, by decide⟩

theorem witness_FlagFrame : ∃ t, exec .scf State.reset = .next t := ⟨_, rfl⟩

/-- RET NZ with Z set takes nothing from the stack; NOP meets every other premise. -/
theorem witness_EngineFrame : (∃ t, exec (.retCc .nz) State.reset = .next t) ∧ writesSp (.retCc .nz) State.reset.cpu.flags = false ∧
    Instr.retCc .nz ≠ .halt ∧ Instr.retCc .nz ≠ .di ∧ Instr.retCc .nz ≠ .ei ∧ Instr.retCc .nz ≠ .reti :=
  ⟨⟨_, rfl⟩, by decide⟩

/-- The state of the two witnesses below: the stack in WRAM. -/
def stacked : State := State.reset.setSp 0xD000#16

/-- PUSH stores to two addresses: an address beside them is not touched. -/
theorem witness_MemoryFrame : (∃ t, exec .pushAf stacked = .next t) ∧ storesAt .pushAf stacked = [0xCFFF#16, 0xCFFE#16] ∧
    ((storesAt .pushAf stacked).all fun a => !touches stacked a 0xD000#16) = true :=
  ⟨⟨_, rfl⟩, by decide, by decide⟩

/-- A store to WRAM meets every premise but the last, and NOP meets that. -/
theorem witness_ControlFrame : (∃ t, exec .pushAf stacked = .next t) ∧
    ([0xFFFF#16, 0xFF0F#16, 0xFF00#16, 0xFF50#16].all fun a => decide (a ∉ storesAt .pushAf stacked)) = true ∧
    ((storesAt .pushAf stacked).all fun a => !programsCart stacked a) = true ∧ storesAt .nop stacked = [] :=
  ⟨⟨_, rfl⟩, by decide, by decide, rfl⟩

theorem witness_DecimalArithmetic : 0 < 100 ∧ 99 < 100 := by decide

end Sys2Proof.Tests
end

namespace Sys2Proof.Machine

/-! ### The invariant along a step -/

/-- No enable hangs over once the stages after an instruction have run (60_exceptions R401, step 4c). -/
theorem finishStep_enableAfter (pc0 : Word) (s : State) : (finishStep pc0 s).cpu.enableAfter = false := by
  simp [finishStep_eq, commit_eq, wake_eq, mergeReq, applyEnable_eq]

theorem finishStep_legal {s : State} (pc0 : Word) (h : s.legal = true) : (finishStep pc0 s).legal = true :=
  service_legal (stages_legal pc0 h)

/-- Settles O27: fetching, the instruction's effect and the stages each keep the stores legal, and the stages clear the delay. -/
theorem stepInvariant : Obligations.StepInvariant := by
  intro s t hinv hstep
  obtain ⟨i, u, hfetch, -, rfl⟩ := step_next hstep
  simp only [State.inv, Bool.and_eq_true, Bool.not_eq_true'] at hinv ⊢
  have hmoved : (moveDelay u).legal = true := (nextInstr_legal hfetch).trans hinv.1
  refine ⟨finishStep_legal _ ?_, finishStep_enableAfter _ _⟩
  simpa using effect_legal i hmoved

/-- Settles O26: at reset no RAM holds a byte, no controller and no overlay is in play, and no enable hangs over. -/
theorem resetInvariant : Obligations.ResetInvariant := by
  unfold Obligations.ResetInvariant
  decide

/-! ### The board: what a store can change -/

/-- The part of the state that the bus reaches: what stores write, and the configuration that says where they land. -/
structure Board where
  bus    : Bus
  cart   : Cart
  params : Params

/-- The board of a state. -/
def State.board (s : State) : Board := ⟨s.bus, s.cart, s.params⟩

/-- A state with the board; the registers and the ports, which no store looks at, are those of reset. -/
def Board.state (b : Board) : State := ⟨Cpu.reset, b.bus, b.cart, b.params, Ports.reset⟩

/-- One store to a board. -/
def Board.store (b : Board) (a : Word) (v : Byte) : Board := (memWrite a v b.state).board

/-- `c` is `b` after one store to each address of the list, in order. -/
inductive Board.Stored : List Word → Board → Board → Prop where
  | nil (b : Board) : Board.Stored [] b b
  | cons (a : Word) (v : Byte) {l : List Word} {b c : Board} (h : Board.Stored l (b.store a v) c) : Board.Stored (a :: l) b c

theorem memWrite_board (a : Word) (v : Byte) (s : State) : (memWrite a v s).board = s.board.store a v := by
  unfold Board.store memWrite
  have hr : route s.board.state.bus.bootActive a = route s.bus.bootActive a := rfl
  rw [hr]
  cases route s.bus.bootActive a <;> rfl


@[simp] theorem State.setReg_board (s : State) (r : Reg) (v : Byte) : (s.setReg r v).board = s.board := rfl
@[simp] theorem State.setPair_board (s : State) (p : Pair) (v : Word) : (s.setPair p v).board = s.board := rfl
@[simp] theorem State.setFlags_board (s : State) (f : Flags) : (s.setFlags f).board = s.board := rfl
@[simp] theorem State.setSp_board (s : State) (v : Word) : (s.setSp v).board = s.board := rfl
@[simp] theorem State.setPc_board (s : State) (v : Word) : (s.setPc v).board = s.board := rfl
@[simp] theorem State.setHalted_board (s : State) (x : Bool) : (s.setHalted x).board = s.board := rfl
@[simp] theorem State.setIme_board (s : State) (x : Bool) : (s.setIme x).board = s.board := rfl
@[simp] theorem State.setEiPending_board (s : State) (x : Bool) : (s.setEiPending x).board = s.board := rfl
@[simp] theorem State.setEnableAfter_board (s : State) (x : Bool) : (s.setEnableAfter x).board = s.board := rfl
@[simp] theorem State.setCycles_board (s : State) (n : Nat) : (s.setCycles n).board = s.board := rfl

@[simp] theorem State.setSurcharge_board (s : State) (n : Nat) : (s.setSurcharge n).board = s.board := rfl

@[simp] theorem memRead_board (a : Word) (s : State) : (memRead a s).2.board = s.board := by simp [State.board]

@[simp] theorem r8_board (r : R8) (s : State) : (r8 r s).2.board = s.board := by simp [State.board]

@[simp] theorem pop16_board (s : State) : (pop16 s).2.board = s.board := by simp [State.board]

@[simp] theorem setR16_board (rr : R16) (v : Word) (s : State) : (setR16 rr v s).board = s.board := by cases rr <;> rfl

@[simp] theorem setR16stk_board (qq : StkPair) (v : Word) (s : State) : (setR16stk qq v s).board = s.board := by cases qq <;> rfl

@[simp] theorem setAf_board (v : Word) (s : State) : (s.setAf v).board = s.board := rfl

@[simp] theorem accumulate_board (op : AluOp) (v : Byte) (s : State) : (accumulate op v s).board = s.board := rfl

@[simp] theorem loadA_board (a : Word) (s : State) : (loadA a s).board = s.board := memRead_board a s

/-! Each operation that stores, as the stores it makes on the board. -/

theorem Board.stored_one (b : Board) (a : Word) (v : Byte) : Board.Stored [a] b (b.store a v) := .cons a v (.nil _)

theorem Board.stored_two (b : Board) (a a' : Word) (v v' : Byte) : Board.Stored [a, a'] b ((b.store a v).store a' v') :=
  .cons a v (.cons a' v' (.nil _))

theorem memWrite_stored {s t : State} (a : Word) (v : Byte) (h : t.board = s.board) :
    Board.Stored [a] s.board (memWrite a v t).board := by
  rw [memWrite_board, h]
  exact Board.stored_one _ a v

theorem setR8_stored {s t : State} (d : R8) (v : Byte) (hc : t.cpu = s.cpu) (h : t.board = s.board) :
    Board.Stored (storedByR8 d s) s.board (setR8 d v t).board := by
  cases d with
  | reg r => exact h ▸ .nil _
  | ind =>
    have hl : t.hl = s.hl := by simp only [State.hl, hc]
    rw [setR8_ind, hl]
    exact memWrite_stored s.hl v h

theorem modifyOperand_stored (f : Byte → Flags → Byte × Flags) (r : R8) (s : State) :
    Board.Stored (storedByR8 r s) s.board (modifyOperand f r s).board :=
  setR8_stored r _ (r8_cpu r s) (r8_board r s)

theorem push16_stored (v : Word) (s : State) : Board.Stored (stackSlots s) s.board (push16 v s).board := by
  simp only [push16_eq, State.setSp_board, memWrite_board]
  exact Board.stored_two ..

theorem memWrite16_stored (a v : Word) (s : State) : Board.Stored [a, a + 1#16] s.board (memWrite16 a v s).board := by
  simp only [memWrite16, memWrite_board]
  exact Board.stored_two ..

theorem effect_stored (i : Instr) (s : State) : Board.Stored (storesAt i s) s.board (effect i s).board := by
  cases i <;> simp only [effect, storesAt, storeA, memRead_board, r8_board, pop16_board, setR16_board, setR16stk_board,
    setAf_board, accumulate_board, loadA_board, State.setReg_board, State.setPair_board, State.setFlags_board,
    State.setSp_board, State.setHalted_board, State.setIme_board, State.setEiPending_board, State.setEnableAfter_board]
  case ldRR d r => exact setR8_stored d _ (r8_cpu r s) (r8_board r s)
  case ldRN d n => exact setR8_stored d n rfl rfl
  case ldRHl d => exact setR8_stored d _ (memRead_cpu s.hl s) (memRead_board s.hl s)
  case ldHlR r => exact memWrite_stored s.hl _ (r8_board r s)
  case ldNnSp nn => exact memWrite16_stored nn s.cpu.sp s
  case ldHlN | ldBcA | ldDeA | ldNnA | ldhNA | ldhCA | ldHliA | ldHldA => exact memWrite_stored _ _ rfl
  case pushRr | pushAf | callNn | rst => exact push16_stored _ s
  case callCcNn cc nn =>
    split
    · exact push16_stored _ s
    · exact .nil _
  case retCc cc =>
    split
    · exact (pop16_board s).symm ▸ .nil _
    · exact .nil _
  case ei => split <;> exact .nil _
  case incHl | decHl | rlcHl | rrcHl | rlHl | rrHl | slaHl | sraHl | swapHl | srlHl | resBHl | setBHl =>
    exact modifyOperand_stored _ .ind s
  case daa | rlca | rrca | rla | rra => exact modifyOperand_stored _ (.reg .a) s
  case incR r | decR r | rlcR r | rrcR r | rlR r | rrR r | slaR r | sraR r | swapR r | srlR r | resBR _ r | setBR _ r =>
    exact modifyOperand_stored _ r s
  all_goals exact .nil _

theorem exec_stored {i : Instr} {s t : State} (h : exec i s = .next t) : Board.Stored (storesAt i s) s.board t.board := by
  rw [exec_next h, State.setCycles_board, State.setPc_board]
  exact effect_stored i s

theorem Board.Stored.eq_of_nil {b c : Board} (h : Board.Stored [] b c) : c = b := by
  cases h
  rfl

/-- What every store to one of the addresses keeps is kept by all of them. -/
theorem Board.Stored.keeps {P : Board → Prop} {l : List Word} {b c : Board} (h : Board.Stored l b c)
    (hs : ∀ a ∈ l, ∀ v b, P b → P (b.store a v)) (hb : P b) : P c := by
  induction h with
  | nil b => exact hb
  | cons a v h ih => exact ih (fun a' ha' => hs a' (.tail _ ha')) (hs a (.head _) v _ hb)

/-! ### What one store leaves -/

theorem Board.store_params (b : Board) (a : Word) (v : Byte) : (b.store a v).params = b.params := memWrite_params a v b.state

/-- IE changes only by a store to 0xFFFF (20_memory R86). -/
theorem Board.store_ie {a : Word} (h : a ≠ 0xFFFF#16) (v : Byte) (b : Board) : (b.store a v).bus.ie = b.bus.ie := by
  unfold Board.store memWrite
  split
  case h_10 hr => exact absurd (BitVec.eq_of_toNat_eq (show a.toNat = 0xFFFF from route_spans hr)) h
  all_goals rfl

/-- IF changes only by a store to 0xFF0F (20_memory R86). -/
theorem Board.store_iflag {a : Word} (h : a ≠ 0xFF0F#16) (v : Byte) (b : Board) : (b.store a v).bus.iflag = b.bus.iflag := by
  unfold Board.store memWrite
  split
  case h_7 hr => exact absurd (BitVec.eq_of_toNat_eq (show a.toNat = 0xFF0F from route_spans hr)) h
  all_goals rfl

/-- The select lines change only by a store to 0xFF00 (20_memory R86). -/
theorem Board.store_p1Select {a : Word} (h : a ≠ 0xFF00#16) (v : Byte) (b : Board) :
    (b.store a v).bus.p1Select = b.bus.p1Select := by
  unfold Board.store memWrite
  split
  case h_6 hr => exact absurd (BitVec.eq_of_toNat_eq (show a.toNat = 0xFF00 from route_spans hr)) h
  all_goals rfl

/-- The overlay changes only by a store to 0xFF50 (20_memory R88). -/
theorem Board.store_bootActive {a : Word} (h : a ≠ 0xFF50#16) (v : Byte) (b : Board) :
    (b.store a v).bus.bootActive = b.bus.bootActive := by
  unfold Board.store memWrite
  split
  case h_8 hr => exact absurd (BitVec.eq_of_toNat_eq (show a.toNat = 0xFF50 from route_spans hr)) h
  all_goals rfl

/-- A write to cartridge RAM that reaches no clock register leaves the controller. -/
theorem cartWriteRam_mbc {p : Params} {c : Cart} {a : Word} (h : ∀ sel, ramTarget p c.mbc a ≠ .clock sel) (v : Byte) :
    (cartWriteRam p c a v).mbc = c.mbc := by
  unfold cartWriteRam
  split
  case h_4 sel hr => exact absurd hr (h sel)
  all_goals rfl

/-- A store that programs no register of the cartridge leaves the controller (20_memory R123, R142). -/
theorem memWrite_mbc {s : State} {a : Word} (h : programsCart s a = false) (v : Byte) : (memWrite a v s).cart.mbc = s.cart.mbc := by
  unfold memWrite
  split
  case h_1 hr => simp [programsCart, hr] at h
  case h_2 hr => simp [programsCart, hr] at h
  case h_3 hr =>
    refine cartWriteRam_mbc (fun sel hsel => ?_) v
    simp [programsCart, hr, hsel] at h
  all_goals rfl

/-- With the overlay on, an address is routed as with it off, or to the boot image (20_memory R84). -/
theorem route_bootActive (a : Word) : route true a = route false a ∨ route true a = .boot ∧ route false a = .cartRom := by
  by_cases h : a.toNat ≤ 0x00FF
  · exact .inr ⟨by simp only [route, if_pos h, if_true], by simp [route, h]⟩
  · exact .inl (by simp only [route, if_neg h])

/-- Whether a store programs the cartridge does not depend on the overlay: with it on or off, 0x0000-0x00FF programs a bank
register. -/
theorem programsCart_congr {s t : State} (hm : t.cart.mbc = s.cart.mbc) (hp : t.params = s.params) (a : Word) :
    programsCart t a = programsCart s a := by
  have hoff : ∀ u : State, programsCart u a = programsCart { u with bus := { u.bus with bootActive := false } } a := by
    intro u
    unfold programsCart
    cases hb : u.bus.bootActive with
    | false => rfl
    | true =>
      rcases route_bootActive a with hr | ⟨hon, hoff⟩
      · rw [hr]
      · rw [hon, hoff]
  rw [hoff t, hoff s]
  simp only [programsCart, hm, hp]

/-- Stores that program no register of the cartridge leave the controller, whatever the ones before have done to the bus. -/
theorem Board.Stored.mbc {s : State} {l : List Word} {c : Board} (h : Board.Stored l s.board c)
    (hl : ∀ a ∈ l, programsCart s a = false) : c.cart.mbc = s.cart.mbc := by
  have hkept : c.cart.mbc = s.cart.mbc ∧ c.params = s.params := by
    refine h.keeps (P := fun b => b.cart.mbc = s.cart.mbc ∧ b.params = s.params) ?_ ⟨rfl, rfl⟩
    rintro a ha v b ⟨hm, hp⟩
    have hnot : programsCart b.state a = false := (programsCart_congr hm hp a).trans (hl a ha)
    exact ⟨(memWrite_mbc hnot v).trans hm, (b.store_params a v).trans hp⟩
  exact hkept.1

/-- A field of the board that no store to one of the addresses changes is as before. -/
theorem Board.Stored.field_eq {α : Type} {f : Board → α} {l : List Word} {b c : Board} (h : Board.Stored l b c)
    (hs : ∀ a ∈ l, ∀ v b, f (b.store a v) = f b) : f c = f b :=
  h.keeps (P := fun d => f d = f b) (fun a ha v d hd => (hs a ha v d).trans hd) rfl

/-- Settles O43: an instruction's stores are those of `storesAt`, and each control register answers to one address alone. -/
theorem controlFrame : Obligations.ControlFrame := by
  intro i s t hexec
  have h := exec_stored hexec
  refine ⟨fun hn => ?_, fun hn => ?_, fun hn => ?_, fun hn => ?_, fun hn => h.mbc hn, fun hn => ?_⟩
  · exact h.field_eq (f := fun b => b.bus.ie) fun a ha => Board.store_ie (ne_of_mem_of_not_mem ha hn)
  · exact h.field_eq (f := fun b => b.bus.iflag) fun a ha => Board.store_iflag (ne_of_mem_of_not_mem ha hn)
  · exact h.field_eq (f := fun b => b.bus.p1Select) fun a ha => Board.store_p1Select (ne_of_mem_of_not_mem ha hn)
  · exact h.field_eq (f := fun b => b.bus.bootActive) fun a ha => Board.store_bootActive (ne_of_mem_of_not_mem ha hn)
  · rw [hn] at h
    have hb : t.board = s.board := h.eq_of_nil
    exact ⟨congrArg Board.bus hb, congrArg Board.cart hb⟩

/-! ### What construction fixes -/

/-- The variant of a controller (20_memory R120). -/
def Mbc.variant : Mbc → Variant
  | .romOnly => .romOnly
  | .mbc1 _ => .mbc1
  | .mbc2 _ => .mbc2
  | .mbc3 _ => .mbc3
  | .mbc5 _ => .mbc5

theorem Mbc.write_variant (m : Mbc) (a : Word) (v : Byte) : (m.write a v).variant = m.variant := by cases m <;> rfl

theorem Mbc.setClock_variant (m : Mbc) (sel : BitVec 3) (v : Byte) : (m.setClock sel v).variant = m.variant := by cases m <;> rfl

theorem cartWriteRam_variant (p : Params) (c : Cart) (a : Word) (v : Byte) :
    (cartWriteRam p c a v).mbc.variant = c.mbc.variant := by
  unfold cartWriteRam
  split
  case h_4 sel _ => exact Mbc.setClock_variant _ sel v
  all_goals rfl

/-- What construction fixes: the parameters and the variant (10_state R67). -/
def Board.fixed (b : Board) : Params × Variant := (b.params, b.cart.mbc.variant)

theorem Board.store_fixed (a : Word) (v : Byte) (b : Board) : (b.store a v).fixed = b.fixed := by
  unfold Board.store memWrite
  split
  case h_1 => exact Prod.ext rfl (Mbc.write_variant _ a v)
  case h_2 => exact Prod.ext rfl (Mbc.write_variant _ a v)
  case h_3 => exact Prod.ext rfl (cartWriteRam_variant _ _ a v)
  all_goals rfl

theorem Board.Stored.fixed {l : List Word} {b c : Board} (h : Board.Stored l b c) : c.fixed = b.fixed :=
  h.field_eq fun a _ => Board.store_fixed a

theorem enterInterrupt_fixed (l : Line) (s : State) : (enterInterrupt l s).board.fixed = s.board.fixed := by
  rw [enterInterrupt_eq, State.setSurcharge_board, State.setPc_board, State.setIme_board]
  exact (push16_stored s.cpu.pc (s.setIflag _)).fixed

theorem service_fixed (s : State) : (service s).board.fixed = s.board.fixed := by
  rcases service_cases s with he | ⟨l, _, _, he⟩
  · rw [he]
  · rw [he, enterInterrupt_fixed]

theorem finishStep_fixed (pc0 : Word) (s : State) : (finishStep pc0 s).board.fixed = s.board.fixed := by
  rw [finishStep_eq, service_fixed, commit_eq, wake_eq, mergeReq, applyEnable_eq]
  rfl

theorem step_fixed {s t : State} (h : step s = .next t) : t.board.fixed = s.board.fixed := by
  obtain ⟨i, u, hfetch, -, rfl⟩ := step_next h
  obtain ⟨-, -, hcart, hparams, -⟩ := nextInstr_frame hfetch
  rw [finishStep_fixed, State.setCycles_board, State.setPc_board, (effect_stored i _).fixed]
  simp [Board.fixed, State.board, moveDelay, hcart, hparams]

/-- Settles O19: neither a store nor a stage of the step touches the parameters or the variant. -/
theorem configuration : Obligations.Configuration := by
  intro s t hstep
  have h := step_fixed hstep
  have hv : t.cart.mbc.variant = s.cart.mbc.variant := congrArg Prod.snd h
  refine ⟨congrArg Prod.fst h, ?_⟩
  cases hs : s.cart.mbc <;> cases ht : t.cart.mbc <;> simp [hs, ht, Mbc.variant] at hv ⊢

end Sys2Proof.Machine

namespace Sys2Proof.Machine

/-! ### Which registers an instruction writes -/

theorem Cpu.setPair_get_other (u : Cpu) {p : Pair} {q : Reg} (v : Word) (h : q ∉ Pair.regs p) :
    (u.setPair p v).get q = u.get q := by
  simp only [Pair.regs, List.mem_cons, List.not_mem_nil, or_false, not_or] at h
  rw [Cpu.setPair, Cpu.get_set_other _ _ h.2, Cpu.get_set_other _ _ h.1]

theorem State.setReg_get_other (s : State) {r q : Reg} (v : Byte) (h : q ∉ [r]) : (s.setReg r v).cpu.get q = s.cpu.get q :=
  Cpu.get_set_other _ v (List.ne_of_not_mem_cons h)

theorem State.setPair_get_other (s : State) {p : Pair} {q : Reg} (v : Word) (h : q ∉ Pair.regs p) :
    (s.setPair p v).cpu.get q = s.cpu.get q :=
  Cpu.setPair_get_other _ v h

theorem setR8_get_other (s : State) {d : R8} {q : Reg} (v : Byte) (h : q ∉ regsOfR8 d) :
    (setR8 d v s).cpu.get q = s.cpu.get q := by
  cases d with
  | reg r => exact s.setReg_get_other v h
  | ind => rw [setR8_ind, memWrite_cpu]

theorem setR16_get_other (s : State) {rr : R16} {q : Reg} (v : Word) (h : q ∉ regsOfR16 rr) :
    (setR16 rr v s).cpu.get q = s.cpu.get q := by
  cases rr with
  | pair p => exact s.setPair_get_other v h
  | sp => exact s.setSp_get v q

theorem State.setAf_get_other (s : State) {q : Reg} (v : Word) (h : q ∉ [Reg.a]) : (s.setAf v).cpu.get q = s.cpu.get q := by
  rw [State.setAf, State.setFlags_get, State.setReg_get_other _ _ h]

theorem setR16stk_get_other (s : State) {qq : StkPair} {q : Reg} (v : Word) (h : q ∉ regsOfStk qq) :
    (setR16stk qq v s).cpu.get q = s.cpu.get q := by
  cases qq with
  | pair p => exact s.setPair_get_other v h
  | af => exact s.setAf_get_other v h

@[simp] theorem Cpu.get_withSp (u : Cpu) (v : Word) (q : Reg) : Cpu.get { u with sp := v } q = u.get q := by cases q <;> rfl

theorem pop16_get (s : State) (q : Reg) : (pop16 s).2.cpu.get q = s.cpu.get q := by
  rw [pop16_cpu, Cpu.get_withSp]

theorem loadA_get_other (a : Word) (s : State) {q : Reg} (h : q ∉ [Reg.a]) : (loadA a s).cpu.get q = s.cpu.get q := by
  rw [loadA_cpu, Cpu.get_set_other _ _ (List.ne_of_not_mem_cons h)]

theorem accumulate_get_other (op : AluOp) (v : Byte) (s : State) {q : Reg} (h : q ∉ [Reg.a]) :
    (accumulate op v s).cpu.get q = s.cpu.get q := by
  rw [accumulate, State.setFlags_get, State.setReg_get_other _ _ h]

/-- CP writes its own accumulator back (42_alu8 R282). -/
theorem accumulate_cp_get (v : Byte) (s : State) (q : Reg) : (accumulate .cp v s).cpu.get q = s.cpu.get q := by
  cases q <;> rfl

theorem modifyOperand_get_other (f : Byte → Flags → Byte × Flags) {r : R8} (s : State) {q : Reg} (h : q ∉ regsOfR8 r) :
    (modifyOperand f r s).cpu.get q = s.cpu.get q := by
  rw [modifyOperand, State.setFlags_get, setR8_get_other _ _ h, r8_cpu]

/-- A register that is no destination is as before the effect. -/
theorem effect_get_other (i : Instr) (s : State) {q : Reg} (h : q ∉ dests i) : (effect i s).cpu.get q = s.cpu.get q := by
  cases i <;> simp only [dests] at h <;> simp only [effect]
  case ldRR d r => rw [setR8_get_other _ _ h, r8_cpu]
  case ldRN d n => exact setR8_get_other _ _ h
  case ldRHl d => rw [setR8_get_other _ _ h, memRead_cpu]
  case ldHlR | ldHlN | ldBcA | ldDeA | ldNnA | ldhNA | ldhCA | ldNnSp => simp
  case ldABc | ldADe | ldANn | ldhAN | ldhAC => exact loadA_get_other _ s h
  case ldHliA | ldHldA => rw [State.setPair_get_other (p := .hl) _ _ h, storeA_cpu]
  case ldAHli | ldAHld =>
    have ha : q ∉ [Reg.a] := fun hm => h (List.mem_append_left [Reg.h, Reg.l] hm)
    rw [State.setPair_get_other (p := .hl) _ _ (List.not_mem_of_not_mem_cons h), loadA_get_other _ s ha]
  case ldRrNn | incRr | decRr => exact setR16_get_other s _ h
  case ldHlSpE | addHlRr => rw [State.setFlags_get, State.setPair_get_other (p := .hl) _ _ h]
  case popAf => rw [State.setAf_get_other _ _ h, pop16_get]
  case popRr => rw [setR16stk_get_other _ _ h, pop16_get]
  case cpR | cpHl | cpN => simp [accumulate_cp_get]
  case addAR | adcAR | subR | sbcAR | andR | xorR | orR => rw [accumulate_get_other _ _ _ h, r8_cpu]
  case addAHl | adcAHl | subHl | sbcAHl | andHl | xorHl | orHl => rw [accumulate_get_other _ _ _ h, memRead_cpu]
  case addAN | adcAN | subN | sbcAN | andN | xorN | orN => exact accumulate_get_other _ _ s h
  case cpl => rw [State.setFlags_get, State.setReg_get_other _ _ h]
  case daa | rlca | rrca | rla | rra | incR | decR | rlcR | rrcR | rlR | rrR | slaR | sraR | swapR | srlR | resBR | setBR |
      incHl | decHl | rlcHl | rrcHl | rlHl | rrHl | slaHl | sraHl | swapHl | srlHl | resBHl | setBHl =>
    exact modifyOperand_get_other _ s h
  case callCcNn | retCc | ei => split <;> simp
  all_goals simp

/-- Settles O39: the PC and the cost that complete an instruction are no registers, and its effect writes its destinations alone. -/
theorem registerFrame : Obligations.RegisterFrame := by
  intro i s t r hexec hr
  rw [exec_next hexec, State.setCycles_cpu, State.setPc_get, effect_get_other i s hr]

/-! ### Flags -/

theorem FlagEffect.all_kept_holds (f : Flags) : (FlagEffect.all .kept).holds f f := ⟨rfl, rfl, rfl, rfl⟩

theorem FlagEffect.all_computed_holds (f g : Flags) : (FlagEffect.all .computed).holds f g :=
  ⟨trivial, trivial, trivial, trivial⟩

/-- The flags column of each operation on A (42_alu8 R261 to R284). -/
def AluOp.flagEffect : AluOp → FlagEffect
  | .add | .adc => ⟨.computed, .zero, .computed, .computed⟩
  | .sub | .sbc | .cp => ⟨.computed, .one, .computed, .computed⟩
  | .and => ⟨.computed, .zero, .one, .zero⟩
  | .xor | .or => ⟨.computed, .zero, .zero, .zero⟩

theorem alu_flagEffect (op : AluOp) (a v : Byte) (c : Bool) (f : Flags) : op.flagEffect.holds f (alu op a v c).2 := by
  cases op <;> exact ⟨trivial, rfl, by constructor, by constructor⟩

theorem accumulate_flagEffect (op : AluOp) (v : Byte) (s : State) (f : Flags) :
    op.flagEffect.holds f (accumulate op v s).cpu.flags :=
  alu_flagEffect op s.cpu.a v s.cpu.flags.c f

@[simp] theorem modifyOperand_flags (f : Byte → Flags → Byte × Flags) (r : R8) (s : State) :
    (modifyOperand f r s).cpu.flags = (f (r8 r s).1 s.cpu.flags).2 := by
  rw [modifyOperand, State.setFlags_flags, r8_cpu]

@[simp] theorem setR8_flags (d : R8) (v : Byte) (s : State) : (setR8 d v s).cpu.flags = s.cpu.flags := by
  cases d <;> simp

@[simp] theorem setR16_flags (rr : R16) (v : Word) (s : State) : (setR16 rr v s).cpu.flags = s.cpu.flags := by
  cases rr <;> simp [setR16]

theorem incByte_flagEffect (v : Byte) (f : Flags) : FlagEffect.holds ⟨.computed, .zero, .computed, .kept⟩ f (incByte v f).2 :=
  ⟨trivial, rfl, trivial, rfl⟩

theorem decByte_flagEffect (v : Byte) (f : Flags) : FlagEffect.holds ⟨.computed, .one, .computed, .kept⟩ f (decByte v f).2 :=
  ⟨trivial, rfl, trivial, rfl⟩

theorem daaByte_flagEffect (v : Byte) (f : Flags) : FlagEffect.holds ⟨.computed, .kept, .zero, .computed⟩ f (daaByte v f).2 :=
  ⟨trivial, rfl, rfl, trivial⟩

theorem rotateA_flagEffect (op : ShiftOp) (v : Byte) (f : Flags) :
    FlagEffect.holds ⟨.zero, .zero, .zero, .computed⟩ f (rotateA op v f).2 :=
  ⟨rfl, rfl, rfl, trivial⟩

theorem shiftByte_flagEffect (op : ShiftOp) (v : Byte) (f : Flags) :
    FlagEffect.holds ⟨.computed, .zero, .zero, .computed⟩ f (shiftByte op v f).2 :=
  ⟨trivial, rfl, rfl, trivial⟩

theorem bitFlags_flagEffect (b : BitVec 3) (v : Byte) (f : Flags) :
    FlagEffect.holds ⟨.computed, .zero, .one, .kept⟩ f (bitFlags b v f) :=
  ⟨trivial, rfl, rfl, rfl⟩

theorem addSpDisp_flagEffect (sp : Word) (e : Byte) (f : Flags) :
    FlagEffect.holds ⟨.zero, .zero, .computed, .computed⟩ f (addSpDisp sp e).2 :=
  ⟨rfl, rfl, trivial, trivial⟩

theorem addWords_flagEffect (hl v : Word) (f : Flags) :
    FlagEffect.holds ⟨.kept, .zero, .computed, .computed⟩ f (addWords hl v f).2 :=
  ⟨rfl, rfl, trivial, trivial⟩

/-- The effect of an instruction on the flags is its flags column. -/
theorem effect_flagEffect (i : Instr) (s : State) : (flagEffect i).holds s.cpu.flags (effect i s).cpu.flags := by
  cases i <;> simp only [effect, flagEffect, modifyOperand_flags, State.setFlags_flags]
  case ldHlSpE e | addSpE e => exact addSpDisp_flagEffect _ e _
  case popAf => exact FlagEffect.all_computed_holds _ _
  case popRr qq =>
    cases qq with
    | pair p => simpa [setR16stk] using FlagEffect.all_kept_holds s.cpu.flags
    | af => exact FlagEffect.all_computed_holds _ _
  case addAR | addAHl | addAN => exact accumulate_flagEffect .add _ _ _
  case adcAR | adcAHl | adcAN => exact accumulate_flagEffect .adc _ _ _
  case subR | subHl | subN => exact accumulate_flagEffect .sub _ _ _
  case sbcAR | sbcAHl | sbcAN => exact accumulate_flagEffect .sbc _ _ _
  case andR | andHl | andN => exact accumulate_flagEffect .and _ _ _
  case xorR | xorHl | xorN => exact accumulate_flagEffect .xor _ _ _
  case orR | orHl | orN => exact accumulate_flagEffect .or _ _ _
  case cpR | cpHl | cpN => exact accumulate_flagEffect .cp _ _ _
  case incR | incHl => exact incByte_flagEffect _ _
  case decR | decHl => exact decByte_flagEffect _ _
  case daa => exact daaByte_flagEffect _ _
  case cpl => exact ⟨rfl, rfl, rfl, rfl⟩
  case scf => exact ⟨rfl, rfl, rfl, rfl⟩
  case ccf => exact ⟨rfl, rfl, rfl, trivial⟩
  case addHlRr => exact addWords_flagEffect _ _ _
  case rlca | rrca | rla | rra => exact rotateA_flagEffect _ _ _
  case rlcR | rlcHl | rrcR | rrcHl | rlR | rlHl | rrR | rrHl | slaR | slaHl | sraR | sraHl | swapR | swapHl | srlR | srlHl =>
    exact shiftByte_flagEffect _ _ _
  case bitBR | bitBHl => exact bitFlags_flagEffect _ _ _
  case callCcNn | retCc | ei => split <;> simpa using FlagEffect.all_kept_holds s.cpu.flags
  all_goals simpa using FlagEffect.all_kept_holds s.cpu.flags

/-- Settles O40: completing an instruction leaves the flags that its effect gave. -/
theorem flagFrame : Obligations.FlagFrame := by
  intro i s t hexec
  rw [exec_next hexec]
  exact effect_flagEffect i s

end Sys2Proof.Machine

namespace Sys2Proof.Machine

/-! ### SP and the engine's own state -/

/-- What the engine keeps beside the registers, and the ports that no instruction writes (10_state R53 to R55). -/
structure Engine where
  halted      : Bool
  ime         : Bool
  eiPending   : Bool
  enableAfter : Bool
  inputs      : List StepInput
  input       : StepInput
  surcharge   : Nat

/-- The engine's own state. -/
def State.engine (s : State) : Engine :=
  ⟨s.cpu.halted, s.cpu.ime, s.cpu.eiPending, s.cpu.enableAfter, s.ports.inputs, s.ports.input, s.ports.surcharge⟩

@[simp] theorem State.setReg_engine (s : State) (r : Reg) (v : Byte) : (s.setReg r v).engine = s.engine := by
  simp [State.engine]
@[simp] theorem State.setPair_engine (s : State) (p : Pair) (v : Word) : (s.setPair p v).engine = s.engine := by
  simp [State.engine]
@[simp] theorem State.setFlags_engine (s : State) (f : Flags) : (s.setFlags f).engine = s.engine := rfl
@[simp] theorem State.setSp_engine (s : State) (v : Word) : (s.setSp v).engine = s.engine := rfl
@[simp] theorem State.setPc_engine (s : State) (v : Word) : (s.setPc v).engine = s.engine := rfl
@[simp] theorem State.setCycles_engine (s : State) (n : Nat) : (s.setCycles n).engine = s.engine := rfl

@[simp] theorem memRead_engine (a : Word) (s : State) : (memRead a s).2.engine = s.engine := by simp [State.engine]

@[simp] theorem memWrite_engine (a : Word) (v : Byte) (s : State) : (memWrite a v s).engine = s.engine := by
  simp [State.engine]

@[simp] theorem r8_engine (r : R8) (s : State) : (r8 r s).2.engine = s.engine := by cases r <;> simp

@[simp] theorem setR8_engine (d : R8) (v : Byte) (s : State) : (setR8 d v s).engine = s.engine := by cases d <;> simp

@[simp] theorem setR16_engine (rr : R16) (v : Word) (s : State) : (setR16 rr v s).engine = s.engine := by
  cases rr <;> simp [setR16]

@[simp] theorem setAf_engine (v : Word) (s : State) : (s.setAf v).engine = s.engine := by simp [State.setAf]

@[simp] theorem setR16stk_engine (qq : StkPair) (v : Word) (s : State) : (setR16stk qq v s).engine = s.engine := by
  cases qq <;> simp [setR16stk]

@[simp] theorem push16_engine (v : Word) (s : State) : (push16 v s).engine = s.engine := by simp [push16_eq]

@[simp] theorem pop16_engine (s : State) : (pop16 s).2.engine = s.engine := by simp [pop16_eq]

@[simp] theorem loadA_engine (a : Word) (s : State) : (loadA a s).engine = s.engine := by simp [loadA]

@[simp] theorem storeA_engine (a : Word) (s : State) : (storeA a s).engine = s.engine := memWrite_engine ..

@[simp] theorem memWrite16_engine (a v : Word) (s : State) : (memWrite16 a v s).engine = s.engine := by simp [memWrite16]

@[simp] theorem accumulate_engine (op : AluOp) (v : Byte) (s : State) : (accumulate op v s).engine = s.engine := by
  simp [accumulate]

@[simp] theorem modifyOperand_engine (f : Byte → Flags → Byte × Flags) (r : R8) (s : State) :
    (modifyOperand f r s).engine = s.engine := by
  simp [modifyOperand]

/-- HALT, DI, EI and RETI are the only instructions that act on the engine (10_state R53 to R55). -/
theorem effect_engine {i : Instr} (s : State) (hhalt : i ≠ .halt) (hdi : i ≠ .di) (hei : i ≠ .ei) (hreti : i ≠ .reti) :
    (effect i s).engine = s.engine := by
  cases i
  case halt => exact absurd rfl hhalt
  case di => exact absurd rfl hdi
  case ei => exact absurd rfl hei
  case reti => exact absurd rfl hreti
  case callCcNn | retCc => simp only [effect]; split <;> simp
  all_goals simp [effect]

@[simp] theorem setR8_sp (d : R8) (v : Byte) (s : State) : (setR8 d v s).cpu.sp = s.cpu.sp := by cases d <;> simp

@[simp] theorem accumulate_sp (op : AluOp) (v : Byte) (s : State) : (accumulate op v s).cpu.sp = s.cpu.sp := by simp [accumulate]

@[simp] theorem modifyOperand_sp (f : Byte → Flags → Byte × Flags) (r : R8) (s : State) :
    (modifyOperand f r s).cpu.sp = s.cpu.sp := by
  simp [modifyOperand]

theorem setR16_sp {rr : R16} (h : rr ≠ .sp) (v : Word) (s : State) : (setR16 rr v s).cpu.sp = s.cpu.sp := by
  cases rr with
  | pair p => exact s.setPair_sp p v
  | sp => exact absurd rfl h

/-- The instructions that do not use the stack and do not name SP leave it (10_state R47). -/
theorem effect_sp {i : Instr} {s : State} (h : writesSp i s.cpu.flags = false) : (effect i s).cpu.sp = s.cpu.sp := by
  cases i
  case ldRrNn | incRr | decRr => exact setR16_sp (of_decide_eq_false h) _ s
  case callCcNn cc _ | retCc cc =>
    have hcc : condition cc s.cpu.flags = false := h
    simp [effect, hcc]
  case ldSpHl | pushRr | pushAf | popAf | popRr | addSpE | callNn | ret | reti | rst => cases h
  case ei => simp only [effect]; split <;> simp
  all_goals simp [effect]

/-- What an instruction leaves of the engine: HALT writes `halted`, RETI `ime`, DI and EI the enables, and nothing else does. -/
theorem effect_engine_frame (i : Instr) (s : State) :
    (i ≠ .halt → (effect i s).engine.halted = s.engine.halted) ∧
    (i ≠ .di → i ≠ .ei → i ≠ .reti → (effect i s).engine.ime = s.engine.ime) ∧
    (i ≠ .di → i ≠ .ei → (effect i s).engine.eiPending = s.engine.eiPending) ∧
    (i ≠ .di → (effect i s).engine.enableAfter = s.engine.enableAfter) ∧
    (effect i s).engine.inputs = s.engine.inputs ∧ (effect i s).engine.input = s.engine.input ∧
    (effect i s).engine.surcharge = s.engine.surcharge := by
  by_cases hhalt : i = .halt
  · subst hhalt
    exact ⟨fun h => absurd rfl h, fun _ _ _ => rfl, fun _ _ => rfl, fun _ => rfl, rfl, rfl, rfl⟩
  by_cases hdi : i = .di
  · subst hdi
    exact ⟨fun _ => rfl, fun h => absurd rfl h, fun h => absurd rfl h, fun h => absurd rfl h, rfl, rfl, rfl⟩
  by_cases hei : i = .ei
  · subst hei
    simp only [effect]
    split <;> exact ⟨fun _ => rfl, fun _ h => absurd rfl h, fun _ h => absurd rfl h, fun _ => rfl, rfl, rfl, rfl⟩
  by_cases hreti : i = .reti
  · subst hreti
    refine ⟨fun _ => ?_, fun _ _ h => absurd rfl h, fun _ _ => ?_, fun _ => ?_, ?_, ?_, ?_⟩ <;>
      simp [effect, State.engine]
  rw [effect_engine s hhalt hdi hei hreti]
  exact ⟨fun _ => rfl, fun _ _ _ => rfl, fun _ _ => rfl, fun _ => rfl, rfl, rfl, rfl⟩

/-- Settles O41: the frame of an instruction's effect, whose PC and cost are no part of it; its stores reach no parameter. -/
theorem engineFrame : Obligations.EngineFrame := by
  intro i s t hexec
  have hparams : t.params = s.params := congrArg Prod.fst (exec_stored hexec).fixed
  obtain ⟨hhalted, hime, hpending, hafter, hinputs, hinput, hsurcharge⟩ := effect_engine_frame i s
  rw [exec_next hexec] at hparams ⊢
  exact ⟨effect_sp, hhalted, hime, hpending, hafter, hparams, hinputs, hinput, hsurcharge⟩

end Sys2Proof.Machine

namespace Sys2Proof.Machine

/-! ### Flags and operands -/

/-- A bit of a byte taken by shift and mask is the bit itself. -/
theorem bitOf_eq_one (v : Byte) (k : Nat) : decide (bitOf v k = 1#8) = v.getLsbD k := by
  have hbit : bitOf v k = BitVec.setWidth 8 (BitVec.ofBool (v.getLsbD k)) := by
    simp [bitOf, BitVec.and_one_eq_setWidth_ofBool_getLsbD]
  rw [hbit]
  cases v.getLsbD k <;> rfl

theorem flagsToByte_eq (z n h c : Bool) : flagsToByte ⟨z, n, h, c⟩ =
    (flagBit z <<< 7) ||| (flagBit n <<< 6) ||| (flagBit h <<< 5) ||| (flagBit c <<< 4) := by
  revert z n h c
  decide

theorem byteToFlags_flagsToByte (z n h c : Bool) : byteToFlags (flagsToByte ⟨z, n, h, c⟩) = ⟨z, n, h, c⟩ := by
  revert z n h c
  decide

/-- The four bits that are no flag are lost on the way through the flags. -/
theorem flagsToByte_byteToFlags (b : Byte) : flagsToByte (byteToFlags b) = b &&& 0xF0#8 := by
  revert b
  decide

/-- Settles O5: the byte is the four flags at their bits, and what the flags drop is its low nibble. -/
theorem flagsCodec : Obligations.FlagsCodec := by
  refine ⟨fun f => flagsToByte_eq f.z f.n f.h f.c, fun b => ?_, flagsToByte_byteToFlags,
    fun f => byteToFlags_flagsToByte f.z f.n f.h f.c⟩
  simp only [bitOf_eq_one, byteToFlags]

/-- Writing back what a pair reads changes nothing (10_state R45). -/
theorem Cpu.setPair_pair_self (u : Cpu) (p : Pair) : u.setPair p (u.pair p) = u := by
  rw [Cpu.setPair, Cpu.pair, hiByte_wordOf, loByte_wordOf]
  cases p <;> rfl

/-- Settles O6: the multiplexers select by definition; a pair read after its write, or written with what it reads, is the
round trip of a word through its two bytes. -/
theorem operandFields : Obligations.OperandFields := by
  refine ⟨fun u => ⟨rfl, rfl, rfl⟩, fun u v => ⟨rfl, rfl, rfl⟩, fun u p v => ⟨u.pair_setPair p v, u.setPair_pair_self p⟩,
    rfl, rfl, rfl, rfl, fun s v => ⟨r8_ind s, setR8_ind v s⟩, fun s r q v => ⟨r8_reg r s, s.setReg_get r q v⟩,
    fun s p v => ⟨rfl, rfl, rfl, rfl⟩, fun s p v => ⟨rfl, rfl, rfl, rfl⟩, fun f => ⟨rfl, rfl, rfl, rfl⟩⟩

/-! ### The host's moves -/

/-- A step that takes its inputs from the script takes the first. -/
theorem takeInput_inputs {s : State} {i : StepInput} {rest : List StepInput} (h : s.ports.inputs = i :: rest) :
    (takeInput s).ports.inputs = rest := by
  simp only [takeInput, h]

/-- A failed step has spent its inputs and the answers to its reads of the opcode (60_exceptions R406). -/
theorem attempted_inputs {s : State} {i : StepInput} {rest : List StepInput} (h : s.ports.inputs = i :: rest) :
    (attempted s).ports.inputs = rest :=
  (readOpcode_frame s.cpu.pc (takeInput s)).2.1.trans (takeInput_inputs h)

/-- The reads of the opcode: one, and a second after 0xCB (60_exceptions R401, step 2). -/
theorem readOpcode_state (pc : Word) (s : State) : (readOpcode pc s).2 =
    if (memRead pc s).1 = 0xCB#8 then (memRead (pc + 1#16) (memRead pc s).2).2 else (memRead pc s).2 := by
  unfold readOpcode prefixByte
  simp only
  split <;> rfl

/-- Settles O24: a step faults and is refused at its own PC alone, so the skip is the one the host makes from there. -/
theorem hostMoves : Obligations.HostMoves := by
  refine ⟨fun s op pfx pc h => ?_, fun s op pc h => ?_, fun s => ⟨?_, fun i rest h => attempted_inputs h⟩, fun s => rfl⟩
  · have hpc : pc = s.cpu.pc := by
      have hf := step_fault h
      simp only [decodeFailure, Fault.decodeFailure.injEq] at hf
      exact hf.2.2
    subst hpc
    exact ⟨rfl, by rw [h]; rfl⟩
  · have hr := step_refused h
    simp only [Refusal.unmodelled.injEq] at hr
    obtain ⟨rfl, rfl⟩ := hr
    exact ⟨rfl, rfl, by rw [h]; rfl⟩
  · simp only [attempted, readOpcode_state]

/-! ### The state at reset -/

/-- The registers and IF that a session starts with: the draws with a boot image, `P_POST_BOOT` without (10_state R70). -/
def Launch.start (x : Launch) : Start := if x.boot.isSome then { x.drawn with pc := 0x0000#16 } else x.postBoot

/-- What a construction that succeeds gives (70_reset R441). -/
theorem construct_ok {x : Launch} {s : State} (h : construct x = .ok s) : ∃ t ramLen, s =
    { cpu := x.start.cpu x.start.pc
      bus := { wram := [], hram := [], ie := 0x00#8, iflag := x.start.iflag, bootActive := x.boot.isSome, p1Select := 0b11#2 }
      cart := loadSavegame (x.params t ramLen) x.save ⟨[], Mbc.reset t.variant x.drawnRtc⟩
      params := x.params t ramLen
      ports := Ports.reset } := by
  unfold construct at h
  split at h
  · cases h
  · rename_i t ramLen _
    cases h
    exact ⟨t, ramLen, rfl⟩

theorem ramOf_get (bytes : List Byte) (lo k : Nat) (h : k < bytes.length) :
    Memory.get (ramOf lo bytes) (lo + k) = some (bytes.getD k 0#8) := by
  induction bytes generalizing lo k with
  | nil => cases h
  | cons v rest ih =>
    cases k with
    | zero => simp [ramOf, Memory.get]
    | succ k =>
      have hk := ih (lo + 1) k (by simpa using h)
      rw [Nat.add_right_comm, Nat.add_assoc] at hk
      simp [ramOf, Memory.get, hk]

theorem loadSavegame_mbc (p : Params) (save : Option (List Byte)) (c : Cart) : (loadSavegame p save c).mbc = c.mbc := by
  unfold loadSavegame
  split
  · split <;> rfl
  · rfl

theorem Params.persists_iff (p : Params) : p.persists = true ↔ p.battery = true ∧ p.ramLen ≠ 0 ∧ p.collaborator = true := by
  simp [Params.persists, and_assoc]

/-- A save of the RAM's length fills the RAM where the cartridge persists (20_memory R127). -/
theorem loadSavegame_of_persists {p : Params} {bytes : List Byte} (c : Cart) (h : p.persists = true ∧ bytes.length = p.ramLen) :
    loadSavegame p (some bytes) c = { c with ram := ramOf 0 (bytes.map c.mbc.ramEntry) } := by
  simp [loadSavegame, h.1, h.2]

/-- Any other save is not loaded (20_memory R127). -/
theorem loadSavegame_of_not_persists {p : Params} {bytes : List Byte} (c : Cart)
    (h : ¬ (p.persists = true ∧ bytes.length = p.ramLen)) : loadSavegame p (some bytes) c = c := by
  simpa [loadSavegame] using fun hp hl => absurd ⟨hp, hl⟩ h

theorem ramOf_map_get (f : Byte → Byte) {bytes : List Byte} {k : Nat} (h : k < bytes.length) :
    Memory.get (ramOf 0 (bytes.map f)) k = some (f (bytes.getD k 0#8)) := by
  have hget := ramOf_get (bytes.map f) 0 k (by simpa using h)
  simpa [h] using hget

/-- Settles O20: construction writes the reset table out, and only a save that fits the RAM replaces a row of it. -/
theorem resetValues : Obligations.ResetValues := by
  refine ⟨by decide, fun x s h => ?_⟩
  obtain ⟨t, ramLen, rfl⟩ := construct_ok h
  refine ⟨?_, rfl, rfl, rfl, rfl, rfl, rfl, rfl, rfl, ?_, ?_⟩
  · simp only [Launch.start]
    split <;> exact ⟨rfl, rfl, rfl, rfl, rfl, rfl, rfl, rfl, rfl, rfl, rfl⟩
  · simp only [loadSavegame_mbc]
    cases t.variant with
    | romOnly => trivial
    | mbc1 | mbc2 | mbc3 | mbc5 => rfl
  · cases x.save with
    | none => exact rfl
    | some bytes =>
      simp only [loadSavegame_mbc]
      split
      · rename_i hc
        obtain ⟨hbattery, hcollaborator, hlen, hbytes⟩ := hc
        have hp := (Params.persists_iff (x.params t ramLen)).mpr ⟨hbattery, hlen, hcollaborator⟩
        rw [loadSavegame_of_persists _ ⟨hp, hbytes⟩]
        exact fun k hk => ramOf_map_get _ hk
      · rename_i hc
        rw [loadSavegame_of_not_persists]
        rintro ⟨hp, hbytes⟩
        obtain ⟨hbattery, hlen, hcollaborator⟩ := (Params.persists_iff _).mp hp
        exact hc ⟨hbattery, hcollaborator, hlen, hbytes⟩

end Sys2Proof.Machine

namespace Sys2Proof.Machine

/-! ### The router, from an address to its region -/

/-- The addresses that are routed to a region, and no others (20_memory R84): the spans of the rule, cut where it tests an address
or the overlay first. -/
@[reducible] def Region.owns (bootActive : Bool) (a : Nat) (r : Region) : Prop :=
  match r with
  | .boot => a ≤ 0xFF ∧ bootActive = true
  | .cartRom => a ≤ 0x7FFF ∧ ¬ (a ≤ 0xFF ∧ bootActive = true)
  | .external .vram => 0x8000 ≤ a ∧ a ≤ 0x9FFF
  | .cartRam => 0xA000 ≤ a ∧ a ≤ 0xBFFF
  | .wram => 0xC000 ≤ a ∧ a ≤ 0xDFFF
  | .echo => 0xE000 ≤ a ∧ a ≤ 0xFDFF
  | .external .oam => 0xFE00 ≤ a ∧ a ≤ 0xFE9F
  | .external .unusable => 0xFEA0 ≤ a ∧ a ≤ 0xFEFF
  | .p1 => a = 0xFF00
  | .ifReg => a = 0xFF0F
  | .bootDisable => a = 0xFF50
  | .external .io => 0xFF00 ≤ a ∧ a ≤ 0xFF7F ∧ a ≠ 0xFF00 ∧ a ≠ 0xFF0F ∧ a ≠ 0xFF50
  | .hram => 0xFF80 ≤ a ∧ a ≤ 0xFFFE
  | .ieReg => 0xFFFF ≤ a

theorem Region.ite_owns {b : Bool} {a : Nat} {c : Prop} [Decidable c] {x y : Region} (hx : c → x.owns b a)
    (hy : ¬ c → y.owns b a) : Region.owns b a (if c then x else y) := by
  split
  · exact hx ‹_›
  · exact hy ‹_›

/-- An address lies where its region does, and where no other region of the rule comes first. -/
theorem route_owns (b : Bool) (x : Word) : (route b x).owns b x.toNat := by
  have hx := x.isLt
  unfold route
  repeat' refine Region.ite_owns (fun _ => ?_) fun _ => ?_
  all_goals simp only [Region.owns]
  all_goals grind

/-- The regions share no address, so what owns it is what it is routed to. -/
theorem route_of_owns {b : Bool} {x : Word} {r : Region} (h : r.owns b x.toNat) : route b x = r := by
  unfold route
  rcases r with _ | _ | _ | _ | _ | _ | _ | _ | _ | _ | (_ | _ | _ | _) <;> grind

theorem owns_of_route {b : Bool} {x : Word} {r : Region} (h : route b x = r) : r.owns b x.toNat := h ▸ route_owns b x

theorem wramOffset_of_wram {x : Word} (h : 0xC000 ≤ x.toNat ∧ x.toNat ≤ 0xDFFF) : wramOffset x = x.toNat - 0xC000 := by
  unfold wramOffset
  omega

theorem wramOffset_of_echo {x : Word} (h : 0xE000 ≤ x.toNat ∧ x.toNat ≤ 0xFDFF) : wramOffset x = x.toNat - 0xE000 := by
  unfold wramOffset
  omega

/-! ### One rule per store: what a read of its addresses gives, and what a write there does -/

section
variable {x : Word}

theorem peek_boot {s : State} (h : x.toNat ≤ 0xFF) (hb : s.bus.bootActive = true) :
    peek x s = some (imageByte (s.params.boot.getD []) x.toNat) := by
  rw [peek, route_of_owns (r := .boot) ⟨h, hb⟩]

theorem peek_cartRom {s : State} (h : x.toNat ≤ 0x7FFF) (hb : ¬ (x.toNat ≤ 0xFF ∧ s.bus.bootActive = true)) :
    peek x s = some (cartRead s.params s.cart x) := by
  rw [peek, route_of_owns (r := .cartRom) ⟨h, hb⟩]

/-- A write below 0x8000 programs the controller, whether the overlay is on or off (20_memory R87). -/
theorem memWrite_rom (h : x.toNat ≤ 0x7FFF) (v : Byte) (s : State) :
    memWrite x v s = { s with cart := { s.cart with mbc := s.cart.mbc.write x v } } := by
  by_cases hb : x.toNat ≤ 0xFF ∧ s.bus.bootActive = true
  · rw [memWrite, route_of_owns (r := .boot) hb]
  · rw [memWrite, route_of_owns (r := .cartRom) ⟨h, hb⟩]

theorem peek_cartRam (h : 0xA000 ≤ x.toNat ∧ x.toNat ≤ 0xBFFF) (s : State) : peek x s = cartReadRam s.params s.cart x := by
  rw [peek, route_of_owns (r := .cartRam) h]

theorem memWrite_cartRam (h : 0xA000 ≤ x.toNat ∧ x.toNat ≤ 0xBFFF) (v : Byte) (s : State) :
    memWrite x v s = { s with cart := cartWriteRam s.params s.cart x v } := by
  rw [memWrite, route_of_owns (r := .cartRam) h]

theorem route_wramWindow {b : Bool} (h : 0xC000 ≤ x.toNat ∧ x.toNat ≤ 0xFDFF) : route b x = .wram ∨ route b x = .echo := by
  by_cases hx : x.toNat ≤ 0xDFFF
  · exact .inl (route_of_owns ⟨h.1, hx⟩)
  · exact .inr (route_of_owns ⟨by omega, h.2⟩)

theorem peek_wram (h : 0xC000 ≤ x.toNat ∧ x.toNat ≤ 0xFDFF) (s : State) :
    peek x s = some (ramByte .wram s.bus.wram (wramOffset x)) := by
  rcases route_wramWindow h with hr | hr <;> rw [peek, hr]

theorem memWrite_wram (h : 0xC000 ≤ x.toNat ∧ x.toNat ≤ 0xFDFF) (v : Byte) (s : State) :
    memWrite x v s = { s with bus := { s.bus with wram := s.bus.wram.put (wramOffset x) v } } := by
  rcases route_wramWindow h with hr | hr <;> rw [memWrite, hr]

theorem peek_p1 (h : x.toNat = 0xFF00) (s : State) : peek x s = some (p1Read s.bus.p1Select s.ports.input.buttons) := by
  rw [peek, route_of_owns (r := .p1) h]

theorem memWrite_p1 (h : x.toNat = 0xFF00) (v : Byte) (s : State) :
    memWrite x v s = { s with bus := { s.bus with p1Select := v.extractLsb' 4 2 } } := by
  rw [memWrite, route_of_owns (r := .p1) h]

/-- The three bits of IF that are no state read 1 (10_state R58). -/
theorem iflag_byte (f : BitVec 5) : 0b111#3 ++ f = 0xE0#8 ||| f.setWidth 8 := by
  revert f
  decide

theorem peek_ifReg (h : x.toNat = 0xFF0F) (s : State) : peek x s = some (0xE0#8 ||| s.bus.iflag.setWidth 8) := by
  rw [peek, route_of_owns (r := .ifReg) h, ← iflag_byte]

theorem memWrite_ifReg (h : x.toNat = 0xFF0F) (v : Byte) (s : State) :
    memWrite x v s = { s with bus := { s.bus with iflag := v.extractLsb' 0 5 } } := by
  rw [memWrite, route_of_owns (r := .ifReg) h]

theorem memWrite_bootDisable (h : x.toNat = 0xFF50) (v : Byte) (s : State) :
    memWrite x v s = { s with bus := { s.bus with bootActive := false } } := by
  rw [memWrite, route_of_owns (r := .bootDisable) h]

theorem peek_hram (h : 0xFF80 ≤ x.toNat ∧ x.toNat ≤ 0xFFFE) (s : State) :
    peek x s = some (ramByte .hram s.bus.hram (hramOffset x)) := by
  rw [peek, route_of_owns (r := .hram) h]

theorem memWrite_hram (h : 0xFF80 ≤ x.toNat ∧ x.toNat ≤ 0xFFFE) (v : Byte) (s : State) :
    memWrite x v s = { s with bus := { s.bus with hram := s.bus.hram.put (hramOffset x) v } } := by
  rw [memWrite, route_of_owns (r := .hram) h]

theorem peek_ieReg (h : 0xFFFF ≤ x.toNat) (s : State) : peek x s = some s.bus.ie := by
  rw [peek, route_of_owns (r := .ieReg) h]

theorem memWrite_ieReg (h : 0xFFFF ≤ x.toNat) (v : Byte) (s : State) :
    memWrite x v s = { s with bus := { s.bus with ie := v } } := by
  rw [memWrite, route_of_owns (r := .ieReg) h]

theorem peek_external {s : State} {area : ExtArea} (h : (Region.external area).owns s.bus.bootActive x.toNat) :
    peek x s = none := by
  rw [peek, route_of_owns h]

theorem memWrite_external {s : State} {area : ExtArea} (h : (Region.external area).owns s.bus.bootActive x.toNat) (v : Byte) :
    memWrite x v s = s.report (.write area x v) := by
  rw [memWrite, route_of_owns h]

theorem peek_bootDisable (h : x.toNat = 0xFF50) (s : State) : peek x s = none := by
  rw [peek, route_of_owns (r := .bootDisable) h]

end

/-! ### The tables of the router -/

/-- What the block answers, address by address (20_memory R84, R85). -/
theorem peek_table (x : Word) (s : State) : peek x s =
    (if x.toNat ≤ 0x00FF ∧ s.bus.bootActive = true then some (imageByte (s.params.boot.getD []) x.toNat)
    else if x.toNat ≤ 0x7FFF then some (cartRead s.params s.cart x)
    else if x.toNat ≤ 0x9FFF then none
    else if x.toNat ≤ 0xBFFF then cartReadRam s.params s.cart x
    else if x.toNat ≤ 0xDFFF then some (ramByte .wram s.bus.wram (x.toNat - 0xC000))
    else if x.toNat ≤ 0xFDFF then some (ramByte .wram s.bus.wram (x.toNat - 0xE000))
    else if x.toNat ≤ 0xFEFF then none
    else if x.toNat = 0xFF00 then some (p1Read s.bus.p1Select s.ports.input.buttons)
    else if x.toNat = 0xFF0F then some (0xE0#8 ||| s.bus.iflag.setWidth 8)
    else if x.toNat ≤ 0xFF7F then none
    else if x.toNat ≤ 0xFFFE then some (ramByte .hram s.bus.hram (x.toNat - 0xFF80))
    else some s.bus.ie) := by
  symm
  refine ite_eq_iff'.2 ⟨fun h => (peek_boot h.1 h.2).symm, fun hb => ?_⟩
  refine ite_eq_iff'.2 ⟨fun h => (peek_cartRom h hb).symm, fun _ => ?_⟩
  refine ite_eq_iff'.2 ⟨fun h => (peek_external (area := .vram) ⟨by omega, h⟩).symm, fun _ => ?_⟩
  refine ite_eq_iff'.2 ⟨fun h => (peek_cartRam ⟨by omega, h⟩ s).symm, fun _ => ?_⟩
  refine ite_eq_iff'.2 ⟨fun h => ?_, fun _ => ?_⟩
  · rw [peek_wram ⟨by omega, by omega⟩, wramOffset_of_wram ⟨by omega, h⟩]
  refine ite_eq_iff'.2 ⟨fun h => ?_, fun _ => ?_⟩
  · rw [peek_wram ⟨by omega, h⟩, wramOffset_of_echo ⟨by omega, h⟩]
  refine ite_eq_iff'.2 ⟨fun h => ?_, fun _ => ?_⟩
  · by_cases ho : x.toNat ≤ 0xFE9F
    · exact (peek_external (area := .oam) ⟨by omega, ho⟩).symm
    · exact (peek_external (area := .unusable) ⟨by omega, h⟩).symm
  refine ite_eq_iff'.2 ⟨fun h => (peek_p1 h s).symm, fun hp => ?_⟩
  refine ite_eq_iff'.2 ⟨fun h => (peek_ifReg h s).symm, fun hi => ?_⟩
  refine ite_eq_iff'.2 ⟨fun h => ?_, fun _ => ?_⟩
  · by_cases hd : x.toNat = 0xFF50
    · exact (peek_bootDisable hd s).symm
    · exact (peek_external (area := .io) ⟨by omega, h, hp, hi, hd⟩).symm
  exact ite_eq_iff'.2 ⟨fun h => (peek_hram ⟨by omega, h⟩ s).symm, fun _ => (peek_ieReg (by omega) s).symm⟩

/-- The area of an External address (20_memory R84). -/
theorem extArea_of_owns {b : Bool} {a : Nat} {area : ExtArea} (h : (Region.external area).owns b a) :
    area = if a ≤ 0x9FFF then .vram else if a ≤ 0xFE9F then .oam else if a ≤ 0xFEFF then .unusable else .io := by
  cases area <;> grind

/-- A read that the block does not answer is a draw, which an External area's collaborator sees and a clock register does not
(20_memory R85, R142). -/
theorem memRead_of_peek_none {x : Word} {s : State} (h : peek x s = none) : memRead x s =
    drawByte (if 0xA000 ≤ x.toNat ∧ x.toNat ≤ 0xBFFF then s
      else s.report (.read (if x.toNat ≤ 0x9FFF then .vram else if x.toNat ≤ 0xFE9F then .oam
        else if x.toNat ≤ 0xFEFF then .unusable else .io) x)) := by
  simp only [memRead, h, extAreaRead]
  cases hr : route s.bus.bootActive x with
  | cartRam => rw [if_pos (owns_of_route hr)]
  | bootDisable =>
    have hx : x.toNat = 0xFF50 := owns_of_route hr
    simp [hx]
  | external area =>
    have ho := owns_of_route hr
    have hw : ¬ (0xA000 ≤ x.toNat ∧ x.toNat ≤ 0xBFFF) := by cases area <;> grind
    rw [if_neg hw, ← extArea_of_owns ho]
  | _ => simp [peek, hr] at h

/-- What a write does, address by address (20_memory R84, R86). -/
theorem memWrite_table (x : Word) (v : Byte) (s : State) : memWrite x v s =
    if x.toNat ≤ 0x7FFF then { s with cart := { s.cart with mbc := s.cart.mbc.write x v } }
    else if x.toNat ≤ 0x9FFF then s.report (.write .vram x v)
    else if x.toNat ≤ 0xBFFF then { s with cart := cartWriteRam s.params s.cart x v }
    else if x.toNat ≤ 0xDFFF then { s with bus := { s.bus with wram := s.bus.wram.put (x.toNat - 0xC000) v } }
    else if x.toNat ≤ 0xFDFF then { s with bus := { s.bus with wram := s.bus.wram.put (x.toNat - 0xE000) v } }
    else if x.toNat ≤ 0xFE9F then s.report (.write .oam x v)
    else if x.toNat ≤ 0xFEFF then s.report (.write .unusable x v)
    else if x.toNat = 0xFF00 then { s with bus := { s.bus with p1Select := v.extractLsb' 4 2 } }
    else if x.toNat = 0xFF0F then { s with bus := { s.bus with iflag := v.extractLsb' 0 5 } }
    else if x.toNat = 0xFF50 then { s with bus := { s.bus with bootActive := false } }
    else if x.toNat ≤ 0xFF7F then s.report (.write .io x v)
    else if x.toNat ≤ 0xFFFE then { s with bus := { s.bus with hram := s.bus.hram.put (x.toNat - 0xFF80) v } }
    else { s with bus := { s.bus with ie := v } } := by
  symm
  refine ite_eq_iff'.2 ⟨fun h => (memWrite_rom h v s).symm, fun _ => ?_⟩
  refine ite_eq_iff'.2 ⟨fun h => (memWrite_external (area := .vram) ⟨by omega, h⟩ v).symm, fun _ => ?_⟩
  refine ite_eq_iff'.2 ⟨fun h => (memWrite_cartRam ⟨by omega, h⟩ v s).symm, fun _ => ?_⟩
  refine ite_eq_iff'.2 ⟨fun h => ?_, fun _ => ?_⟩
  · rw [memWrite_wram ⟨by omega, by omega⟩, wramOffset_of_wram ⟨by omega, h⟩]
  refine ite_eq_iff'.2 ⟨fun h => ?_, fun _ => ?_⟩
  · rw [memWrite_wram ⟨by omega, h⟩, wramOffset_of_echo ⟨by omega, h⟩]
  refine ite_eq_iff'.2 ⟨fun h => (memWrite_external (area := .oam) ⟨by omega, h⟩ v).symm, fun _ => ?_⟩
  refine ite_eq_iff'.2 ⟨fun h => (memWrite_external (area := .unusable) ⟨by omega, h⟩ v).symm, fun _ => ?_⟩
  refine ite_eq_iff'.2 ⟨fun h => (memWrite_p1 h v s).symm, fun hp => ?_⟩
  refine ite_eq_iff'.2 ⟨fun h => (memWrite_ifReg h v s).symm, fun hi => ?_⟩
  refine ite_eq_iff'.2 ⟨fun h => (memWrite_bootDisable h v s).symm, fun hb => ?_⟩
  refine ite_eq_iff'.2 ⟨fun h => (memWrite_external (area := .io) ⟨by omega, h, hp, hi, hb⟩ v).symm, fun _ => ?_⟩
  exact ite_eq_iff'.2 ⟨fun h => (memWrite_hram ⟨by omega, h⟩ v s).symm, fun _ => (memWrite_ieReg (by omega) v s).symm⟩

/-- Settles O8: the router's ranges in order, each with the write rule of its region. -/
theorem busWrites : Obligations.BusWrites := fun x v s => memWrite_table x v s

/-- Settles O7: the router's ranges in order, each with the read rule of its region; what none answers is a draw. -/
theorem busReads : Obligations.BusReads := by
  intro x s
  refine ⟨peek_table x s, ?_, rfl, fun _ => rfl⟩
  split
  next v h => exact memRead_of_peek h
  next h => exact memRead_of_peek_none h

/-- Settles O9: an address of WRAM and its echo have one offset, so they read and write one byte (20_memory R89). -/
theorem echoAlias : Obligations.EchoAlias := by
  intro k v s hk a e
  have ha : a.toNat = 0xC000 + k := by rw [BitVec.toNat_ofNat]; omega
  have he : e.toNat = 0xE000 + k := by rw [BitVec.toNat_ofNat]; omega
  have hoff : wramOffset e = wramOffset a := by unfold wramOffset; omega
  have hwa : 0xC000 ≤ a.toNat ∧ a.toNat ≤ 0xFDFF := by omega
  have hwe : 0xC000 ≤ e.toNat ∧ e.toNat ≤ 0xFDFF := by omega
  have hread : ∀ t, peek a t = peek e t := fun t => by rw [peek_wram hwa, peek_wram hwe, hoff]
  have hwrite : memWrite a v s = memWrite e v s := by rw [memWrite_wram hwa, memWrite_wram hwe, hoff]
  have hback : peek a (memWrite a v s) = some v := by rw [peek_wram hwa, memWrite_wram hwa, ramByte_put_self]
  exact ⟨hread s, hwrite, hread _ ▸ hback, hwrite ▸ hback⟩

end Sys2Proof.Machine

namespace Sys2Proof.Machine

/-! ### The cartridge's RAM, by what an access reaches -/

section
variable {p : Params} {c : Cart} {x : Word}

theorem cartReadRam_closed (h : ramTarget p c.mbc x = .closed) : cartReadRam p c x = some p.ramSentinel := by
  rw [cartReadRam, h]

theorem cartWriteRam_closed (h : ramTarget p c.mbc x = .closed) (v : Byte) : cartWriteRam p c x v = c := by
  rw [cartWriteRam, h]

theorem cartReadRam_cell {k : Nat} (h : ramTarget p c.mbc x = .cell k) : cartReadRam p c x = some (ramByte .cartRam c.ram k) := by
  rw [cartReadRam, h]

theorem cartWriteRam_cell {k : Nat} (h : ramTarget p c.mbc x = .cell k) (v : Byte) :
    cartWriteRam p c x v = { c with ram := c.ram.put k v } := by
  rw [cartWriteRam, h]

theorem cartReadRam_nibble {k : Nat} (h : ramTarget p c.mbc x = .nibble k) :
    cartReadRam p c x = some (ramByte .cartRam c.ram k &&& 0x0F#8) := by
  rw [cartReadRam, h]

theorem cartWriteRam_nibble {k : Nat} (h : ramTarget p c.mbc x = .nibble k) (v : Byte) :
    cartWriteRam p c x v = { c with ram := c.ram.put k (v &&& 0x0F#8) } := by
  rw [cartWriteRam, h]

theorem cartReadRam_clock {sel : BitVec 3} (h : ramTarget p c.mbc x = .clock sel) :
    cartReadRam p c x = if p.rtcModel = .frozen then some (c.mbc.clock sel) else none := by
  rw [cartReadRam, h]
  cases p.rtcModel <;> rfl

theorem cartWriteRam_clock {sel : BitVec 3} (h : ramTarget p c.mbc x = .clock sel) (v : Byte) :
    cartWriteRam p c x v = { c with mbc := c.mbc.setClock sel v } := by
  rw [cartWriteRam, h]

end

/-- Writing a clock register moves no access: the banks and the enables stay (20_memory R142). -/
@[simp] theorem ramTarget_setClock (p : Params) (mbc : Mbc) (sel : BitVec 3) (v : Byte) (x : Word) :
    ramTarget p (mbc.setClock sel v) x = ramTarget p mbc x := by
  cases mbc <;> rfl

@[simp] theorem romOffset_setClock (p : Params) (mbc : Mbc) (sel : BitVec 3) (v : Byte) (x : Word) :
    romOffset p (mbc.setClock sel v) x = romOffset p mbc x := by
  cases mbc <;> rfl

/-- A clock register reads back what was written to it. -/
theorem Rtc.read_write_self (r : Rtc) (sel : BitVec 3) (v : Byte) : (r.write sel v).read sel = v := by
  unfold Rtc.read Rtc.write
  rcases sel.toNat with _ | _ | _ | _ | _ <;> rfl

/-! ### A read after a write -/

/-- Open cartridge RAM answers with one cell or nibble for each address of the window: the offset from a base, modulo a size of at
least the bytes it is open for; and the bits kept are those of a cell or a nibble (20_memory R124, R126, R137). -/
theorem ramOpen_reaches {s : State} {n : Nat} (h : ramOpen s n = true) (hn : 0 < n) (hn' : n ≤ 512) :
    ∃ (kind : Nat → RamTarget) (mask : Byte) (base size : Nat),
      (kind = .cell ∧ mask = 0xFF#8 ∨ kind = .nibble ∧ mask = 0x0F#8) ∧ n ≤ size ∧
      ∀ x : Word, 0xA000 ≤ x.toNat ∧ x.toNat ≤ 0xBFFF →
        ramTarget s.params s.cart.mbc x = kind ((base + (x.toNat - 0xA000)) % size) ∧ keptBits s x = mask := by
  have hcell : ∀ {m : Nat}, n ≤ m → ∀ bank x, ramCell m bank x = .cell ((bank * 0x2000 + (x.toNat - 0xA000)) % m) :=
    fun hm bank x => if_neg (by omega)
  cases hm : s.cart.mbc with
  | romOnly =>
    simp only [ramOpen, hm, decide_eq_true_eq] at h
    exact ⟨.cell, 0xFF#8, _, s.params.ramLen, .inl ⟨rfl, rfl⟩, h, fun x _ => ⟨hcell h 0 x, by rw [keptBits, hm]⟩⟩
  | mbc1 m | mbc5 m =>
    simp only [ramOpen, hm, Bool.and_eq_true, decide_eq_true_eq] at h
    exact ⟨.cell, 0xFF#8, _, s.params.ramLen, .inl ⟨rfl, rfl⟩, h.2,
      fun x _ => ⟨by rw [ramTarget, if_pos h.1, hcell h.2], by rw [keptBits, hm]⟩⟩
  | mbc2 m =>
    simp only [ramOpen, hm] at h
    exact ⟨.nibble, 0x0F#8, 0, 512, .inr ⟨rfl, rfl⟩, hn',
      fun x hx => ⟨by rw [ramTarget, if_pos h, Nat.zero_add], by rw [keptBits, hm]; exact if_pos hx⟩⟩
  | mbc3 m =>
    simp only [ramOpen, hm, Bool.and_eq_true, Bool.not_eq_true', decide_eq_true_eq] at h
    obtain ⟨⟨hon, hclock⟩, hlen⟩ := h
    exact ⟨.cell, 0xFF#8, _, s.params.ramLen, .inl ⟨rfl, rfl⟩, hlen,
      fun x _ => ⟨by rw [ramTarget, if_pos hon, hclock, if_neg Bool.false_ne_true, hcell hlen], by rw [keptBits, hm]⟩⟩

/-- Outside the window every bit is kept, whatever the controller. -/
theorem keptBits_of_not_window {s : State} {x : Word} (h : ¬ (0xA000 ≤ x.toNat ∧ x.toNat ≤ 0xBFFF)) : keptBits s x = 0xFF#8 := by
  unfold keptBits
  split
  · exact if_neg h
  all_goals rfl

theorem and_allBits (v : Byte) : v &&& 0xFF#8 = v := BitVec.and_allOnes

theorem keeps_iff {s : State} {n : Nat} {x : Word} : keeps s n x = true ↔
    (0xC000 ≤ x.toNat ∧ x.toNat ≤ 0xFDFF) ∨ 0xFF80 ≤ x.toNat ∨
      (0xA000 ≤ x.toNat ∧ x.toNat ≤ 0xBFFF) ∧ ramOpen s n = true := by
  simp only [keeps, Bool.or_eq_true, Bool.and_eq_true, decide_eq_true_eq, or_assoc]

/-- A RAM that keeps a byte gives it back, cut to the bits it has (20_memory R97, R137). -/
theorem peek_memWrite_of_keeps {s : State} {n : Nat} {x : Word} (h : keeps s n x = true) (hn : 0 < n) (hn' : n ≤ 512) (v : Byte) :
    peek x (memWrite x v s) = some (v &&& keptBits s x) := by
  have hx := x.isLt
  rcases keeps_iff.1 h with hw | hh | ⟨hr, ho⟩
  · rw [peek_wram hw, memWrite_wram hw, ramByte_put_self, keptBits_of_not_window (by omega), and_allBits]
  · rw [keptBits_of_not_window (by omega), and_allBits]
    by_cases hi : x.toNat ≤ 0xFFFE
    · rw [peek_hram ⟨hh, hi⟩, memWrite_hram ⟨hh, hi⟩, ramByte_put_self]
    · rw [peek_ieReg (by omega), memWrite_ieReg (by omega)]
  · rw [peek_cartRam hr, memWrite_cartRam hr]
    obtain ⟨kind, mask, base, size, hkind, -, hall⟩ := ramOpen_reaches ho hn hn'
    obtain ⟨ht, hm⟩ := hall x hr
    rcases hkind with ⟨rfl, rfl⟩ | ⟨rfl, rfl⟩
    · rw [cartWriteRam_cell ht, cartReadRam_cell (by exact ht), ramByte_put_self, hm, and_allBits]
    · rw [cartWriteRam_nibble ht, cartReadRam_nibble (by exact ht), ramByte_put_self, hm, BitVec.and_assoc, BitVec.and_self]

/-- A selected clock register gives back the byte under `P_RTC_MODEL = frozen` (20_memory R142). -/
theorem peek_memWrite_clock {s : State} {x : Word} {m : Mbc3} (hx : 0xA000 ≤ x.toNat ∧ x.toNat ≤ 0xBFFF)
    (hm : s.cart.mbc = .mbc3 m) (hon : m.ramAndTimerEnabled = true) (hclock : m.rtcMode = true)
    (hfrozen : s.params.rtcModel = .frozen) (v : Byte) : peek x (memWrite x v s) = some v := by
  have ht : ramTarget s.params s.cart.mbc x = .clock m.rtcSel := by rw [hm, ramTarget, if_pos hon, if_pos hclock]
  rw [peek_cartRam hx, memWrite_cartRam hx, cartWriteRam_clock ht, cartReadRam_clock (sel := m.rtcSel) (by simpa using ht),
    if_pos hfrozen, hm]
  exact congrArg some (m.rtc.read_write_self m.rtcSel v)

theorem iflag_of_byte (v : Byte) : (v.extractLsb' 0 5).setWidth 8 = v &&& 0x1F#8 := by
  revert v
  decide

/-- Settles O10: the read rule of each store after its write rule; an answer that needs no draw changes nothing. -/
theorem readAfterWrite : Obligations.ReadAfterWrite := by
  intro x v s gives
  have hgives : ∀ {w : Byte}, peek x (memWrite x v s) = some w → gives w := memRead_of_peek
  refine ⟨fun h => ?_, fun m hlo hhi hm hon hclock hfrozen => ?_, fun h => ?_, fun h => ?_⟩
  · exact hgives (peek_memWrite_of_keeps h (by decide) (by decide) v)
  · exact hgives (peek_memWrite_clock ⟨hlo, hhi⟩ hm hon hclock hfrozen v)
  · have hx : x.toNat = 0xFF0F := congrArg BitVec.toNat h
    exact hgives (by rw [peek_ifReg hx, memWrite_ifReg hx, iflag_of_byte])
  · have hx : x.toNat = 0xFF00 := congrArg BitVec.toNat h
    exact hgives (by rw [peek_p1 hx, memWrite_p1 hx])

end Sys2Proof.Machine

namespace Sys2Proof.Machine

/-! ### The frame of one store -/

@[simp] theorem touches.ramWindow_iff {x : Word} : touches.ramWindow x = true ↔ 0xA000 ≤ x.toNat ∧ x.toNat ≤ 0xBFFF := by
  simp [touches.ramWindow]

@[simp] theorem touches.cartWindow_iff {x : Word} : touches.cartWindow x = true ↔
    (0x4000 ≤ x.toNat ∧ x.toNat ≤ 0x7FFF) ∨ 0xA000 ≤ x.toNat ∧ x.toNat ≤ 0xBFFF := by
  simp [touches.cartWindow]

@[simp] theorem touches.wramWindow_iff {x : Word} : touches.wramWindow x = true ↔ 0xC000 ≤ x.toNat ∧ x.toNat ≤ 0xFDFF := by
  simp [touches.wramWindow]

/-- Where the cartridges answer alike at an address of theirs, the rest of the state alone says what a read gives. -/
theorem peek_congr_cart {s t : State} {x : Word} (hb : t.bus = s.bus) (hp : t.params = s.params)
    (hi : t.ports.input = s.ports.input) (hrom : x.toNat ≤ 0x7FFF → cartRead s.params t.cart x = cartRead s.params s.cart x)
    (hram : 0xA000 ≤ x.toNat ∧ x.toNat ≤ 0xBFFF → cartReadRam s.params t.cart x = cartReadRam s.params s.cart x) :
    peek x t = peek x s := by
  unfold peek
  rw [hb, hp, hi]
  cases hr : route s.bus.bootActive x with
  | cartRom => exact congrArg some (hrom (route_spans hr))
  | cartRam => exact hram (route_spans hr)
  | _ => rfl

/-- Programming a bank register moves the banked windows alone: 0x0000-0x3FFF shows bank 0 whatever the controller
(20_memory R124). -/
theorem peek_program {x : Word} (h : touches.cartWindow x = false) (s : State) (mbc : Mbc) :
    peek x { s with cart := { s.cart with mbc := mbc } } = peek x s := by
  simp only [Bool.eq_false_iff, ne_eq, touches.cartWindow_iff, not_or] at h
  refine peek_congr_cart rfl rfl rfl (fun hx => ?_) fun hx => absurd hx h.2
  have hlow : x.toNat < 0x4000 := by omega
  simp only [cartRead, romOffset, if_pos hlow]

/-- A byte put in the RAM is seen at the addresses that show its cell or its nibble alone. -/
theorem cartReadRam_put {p : Params} {c : Cart} {x : Word} {k : Nat} (hcell : ramTarget p c.mbc x ≠ .cell k)
    (hnibble : ramTarget p c.mbc x ≠ .nibble k) (w : Byte) :
    cartReadRam p { c with ram := c.ram.put k w } x = cartReadRam p c x := by
  cases ht : ramTarget p c.mbc x with
  | closed => rw [cartReadRam_closed ht, cartReadRam_closed (by exact ht)]
  | clock sel => rw [cartReadRam_clock ht, cartReadRam_clock (sel := sel) (by exact ht)]
  | cell j =>
    have hj : j ≠ k := fun e => hcell (e ▸ ht)
    rw [cartReadRam_cell ht, cartReadRam_cell (by exact ht), ramByte_put_other _ _ _ hj]
  | nibble j =>
    have hj : j ≠ k := fun e => hnibble (e ▸ ht)
    rw [cartReadRam_nibble ht, cartReadRam_nibble (by exact ht), ramByte_put_other _ _ _ hj]

/-- No controller has both cells and nibbles (20_memory R137). -/
theorem ramTarget_cell_or_nibble {p : Params} {mbc : Mbc} {a x : Word} {j k : Nat} (ha : ramTarget p mbc a = .cell k)
    (hx : ramTarget p mbc x = .nibble j) : False := by
  obtain ⟨-, m, hm⟩ := ramTarget_nibble hx
  exact (ramTarget_cell ha).2 m hm

/-- A store to cartridge RAM reaches the addresses that show the same cell, and one to a clock register the whole window
(20_memory R124, R142). -/
theorem peek_cartWriteRam {s : State} {a x : Word} (ha : route s.bus.bootActive a = .cartRam) (h : touches s a x = false)
    (v : Byte) :
    peek x { s with cart := cartWriteRam s.params s.cart a v } = peek x s := by
  simp only [touches, ha] at h
  refine peek_congr_cart rfl rfl rfl (fun _ => ?_) fun hx => ?_
  · unfold cartWriteRam
    split <;> simp only [cartRead, romOffset_setClock]
  · have hw : touches.ramWindow x = true := touches.ramWindow_iff.2 hx
    cases ht : ramTarget s.params s.cart.mbc a with
    | closed => rw [cartWriteRam_closed ht]
    | clock sel => simp [ht, hw] at h
    | cell k =>
      have hne : ramTarget s.params s.cart.mbc x ≠ .cell k := by simpa [ht, hw] using h
      rw [cartWriteRam_cell ht, cartReadRam_put hne fun hn => ramTarget_cell_or_nibble ht hn]
    | nibble k =>
      have hne : ramTarget s.params s.cart.mbc x ≠ .nibble k := by simpa [ht, hw] using h
      rw [cartWriteRam_nibble ht, cartReadRam_put (fun hc => ramTarget_cell_or_nibble hc ht) hne]

/-- A byte put in WRAM is seen at the two addresses of its offset (20_memory R89). -/
theorem peek_putWram {s : State} {x : Word} {k : Nat} (h : touches.wramWindow x = true → wramOffset x ≠ k) (v : Byte) :
    peek x { s with bus := { s.bus with wram := s.bus.wram.put k v } } = peek x s := by
  simp only [touches.wramWindow_iff] at h
  unfold peek
  cases hr : route s.bus.bootActive x with
  | wram =>
    have hx : 0xC000 ≤ x.toNat ∧ x.toNat ≤ 0xDFFF := route_spans hr
    exact congrArg some (ramByte_put_other _ _ _ (h (by omega)))
  | echo =>
    have hx : 0xE000 ≤ x.toNat ∧ x.toNat ≤ 0xFDFF := route_spans hr
    exact congrArg some (ramByte_put_other _ _ _ (h (by omega)))
  | _ => rfl

/-- The overlay shows at 0x0000-0x00FF alone (20_memory R87). -/
theorem peek_setBootActive {x : Word} (h : ¬ x.toNat ≤ 0x00FF) (s : State) (b : Bool) :
    peek x { s with bus := { s.bus with bootActive := b } } = peek x s := by
  have hr : route b x = route s.bus.bootActive x := by simp only [route, if_neg h]
  simp only [peek, hr]

/-- P1, IF and IE have one address each (20_memory R84). -/
theorem route_register_inj {b : Bool} {a x : Word} {r : Region} (hr : r = .p1 ∨ r = .ifReg ∨ r = .ieReg) (ha : route b a = r)
    (hx : route b x = r) : x = a := by
  have ha' := route_spans ha
  have hx' := route_spans hx
  rcases hr with rfl | rfl | rfl <;> exact BitVec.eq_of_toNat_eq (hx'.trans ha'.symm)

/-- Settles O11: the frame of each store in turn: the banked windows, the cartridge's RAM, WRAM, the overlay, HRAM, and the registers
of one address. -/
theorem writeFrame : Obligations.WriteFrame := by
  intro a x v s h
  cases ha : route s.bus.bootActive a with
  | boot | cartRom =>
    simp only [touches, ha] at h
    simp only [memWrite, ha]
    exact peek_program h s _
  | cartRam =>
    simp only [memWrite, ha]
    exact peek_cartWriteRam ha h v
  | wram | echo =>
    simp only [touches, ha, Bool.and_eq_false_imp, decide_eq_false_iff_not] at h
    simp only [memWrite, ha]
    exact peek_putWram h v
  | bootDisable =>
    simp only [touches, ha, decide_eq_false_iff_not] at h
    simp only [memWrite, ha]
    exact peek_setBootActive h s false
  | external area =>
    simp only [memWrite, ha]
    exact peek_congr rfl rfl rfl rfl x
  | p1 =>
    have hne : x ≠ a := by simpa [touches, ha] using h
    simp only [memWrite, ha, peek]
    cases hx : route s.bus.bootActive x with
    | p1 => exact absurd (route_register_inj (.inl rfl) ha hx) hne
    | _ => rfl
  | ifReg =>
    have hne : x ≠ a := by simpa [touches, ha] using h
    simp only [memWrite, ha, peek]
    cases hx : route s.bus.bootActive x with
    | ifReg => exact absurd (route_register_inj (.inr (.inl rfl)) ha hx) hne
    | _ => rfl
  | ieReg =>
    have hne : x ≠ a := by simpa [touches, ha] using h
    simp only [memWrite, ha, peek]
    cases hx : route s.bus.bootActive x with
    | ieReg => exact absurd (route_register_inj (.inr (.inr rfl)) ha hx) hne
    | _ => rfl
  | hram =>
    have hne : x.toNat ≠ a.toNat := by simpa [touches, ha, BitVec.toNat_inj] using h
    have hspan : 0xFF80 ≤ a.toNat ∧ a.toNat ≤ 0xFFFE := route_spans ha
    simp only [memWrite, ha, peek]
    cases hx : route s.bus.bootActive x with
    | hram =>
      have hspan' : 0xFF80 ≤ x.toNat ∧ x.toNat ≤ 0xFFFE := route_spans hx
      have hoff : hramOffset x ≠ hramOffset a := by unfold hramOffset; omega
      exact congrArg some (ramByte_put_other _ _ _ hoff)
    | _ => rfl

end Sys2Proof.Machine

namespace Sys2Proof.Machine

/-! ### What a store can reach does not depend on the rest of the state -/

/-- Every store below 0x8000 programs the controller, and can move the windows (20_memory R123). -/
theorem touches_of_rom {a : Word} (h : a.toNat ≤ 0x7FFF) (s : State) (x : Word) : touches s a x = touches.cartWindow x := by
  by_cases hb : a.toNat ≤ 0xFF ∧ s.bus.bootActive = true
  · rw [touches, route_of_owns (r := .boot) hb]
  · rw [touches, route_of_owns (r := .cartRom) ⟨h, hb⟩]

/-- What a store reaches depends on the overlay not at all, and on the controller only where the store is to cartridge RAM. -/
theorem touches_congr {s t : State} {a : Word} (hp : t.params = s.params)
    (ht : 0xA000 ≤ a.toNat ∧ a.toNat ≤ 0xBFFF → ∀ y, ramTarget s.params t.cart.mbc y = ramTarget s.params s.cart.mbc y)
    (x : Word) :
    touches t a x = touches s a x := by
  by_cases hlow : a.toNat ≤ 0x7FFF
  · rw [touches_of_rom hlow, touches_of_rom hlow]
  · have hr : route t.bus.bootActive a = route s.bus.bootActive a := by
      simp only [route, if_neg (show ¬ a.toNat ≤ 0x00FF by omega)]
    unfold touches
    rw [hr, hp]
    cases ha : route s.bus.bootActive a with
    | cartRam => simp only [ht (route_spans ha)]
    | _ => rfl

/-! ### The stack -/

/-- Settles O12: a push and a pop in one expression, and the two halves of a 16-bit access by definition. -/
theorem stackPrimitives : Obligations.StackPrimitives :=
  ⟨fun _ _ => ⟨rfl, rfl⟩, fun _ _ _ => rfl, push16_eq, pop16_eq⟩

theorem programsCart_of_keeps {s : State} {n : Nat} {a : Word} (h : keeps s n a = true) (hn : 0 < n) (hn' : n ≤ 512) :
    programsCart s a = false := by
  rcases keeps_iff.1 h with hw | hh | ⟨hr, ho⟩
  · rcases route_wramWindow (b := s.bus.bootActive) hw with hr | hr <;> simp only [programsCart, hr]
  · by_cases hi : a.toNat ≤ 0xFFFE
    · simp only [programsCart, route_of_owns (r := .hram) ⟨hh, hi⟩]
    · simp only [programsCart, route_of_owns (r := .ieReg) (Nat.lt_of_not_le hi)]
  · obtain ⟨kind, mask, base, size, hkind, -, hall⟩ := ramOpen_reaches ho hn hn'
    simp only [programsCart, route_of_owns (r := .cartRam) hr, (hall a hr).1]
    rcases hkind with ⟨rfl, -⟩ | ⟨rfl, -⟩ <;> rfl

/-- Neighbours differ modulo any size but 1. -/
theorem succ_mod_ne {a n : Nat} (h : 2 ≤ n) : (a + 1) % n ≠ a % n := by
  intro e
  have := Nat.sub_mod_eq_zero_of_mod_eq e
  rw [Nat.add_sub_cancel_left, Nat.mod_eq_of_lt h] at this
  cases this

/-- Where both keep their bytes, a store does not reach the address after it. -/
theorem touches_next {s : State} {y x : Word} (hy : keeps s 2 y = true) (h : x.toNat = y.toNat + 1) :
    touches s y x = false := by
  have hxy : decide (x = y) = false := decide_eq_false fun e => by rw [e] at h; omega
  rcases keeps_iff.1 hy with hw | hh | ⟨hr, ho⟩
  · have hoff : decide (wramOffset x = wramOffset y) = false := decide_eq_false (by unfold wramOffset; omega)
    rcases route_wramWindow (b := s.bus.bootActive) hw with hr | hr <;> simp only [touches, hr, hoff, Bool.and_false]
  · by_cases hi : y.toNat ≤ 0xFFFE
    · simp only [touches, route_of_owns (r := .hram) ⟨hh, hi⟩, hxy]
    · simp only [touches, route_of_owns (r := .ieReg) (Nat.lt_of_not_le hi), hxy]
  · obtain ⟨kind, mask, base, size, hkind, hsize, hall⟩ := ramOpen_reaches ho (by decide) (by decide)
    simp only [touches, route_of_owns (r := .cartRam) hr, (hall y hr).1]
    by_cases hx : touches.ramWindow x = true
    · have hk := (hall x (touches.ramWindow_iff.1 hx)).1
      have hne : (base + (x.toNat - 0xA000)) % size ≠ (base + (y.toNat - 0xA000)) % size := by
        have hs : base + (x.toNat - 0xA000) = base + (y.toNat - 0xA000) + 1 := by omega
        rw [hs]
        exact succ_mod_ne hsize
      rcases hkind with ⟨rfl, -⟩ | ⟨rfl, -⟩ <;> simp [hk, hne]
    · rw [Bool.not_eq_true] at hx
      rcases hkind with ⟨rfl, -⟩ | ⟨rfl, -⟩ <;> simp [hx]

/-- The bytes that stand in the slots after a push: each the byte pushed, cut to what its slot keeps. The second store does not
reach the first one's slot. -/
theorem peek_pushed {s : State} (hi lo : Byte) (h1 : keeps s 2 (s.cpu.sp - 1#16) = true)
    (h2 : keeps s 2 (s.cpu.sp - 2#16) = true) :
    peek (s.cpu.sp - 1#16) (pushed hi lo s) = some (hi &&& keptBits s (s.cpu.sp - 1#16)) ∧
    peek (s.cpu.sp - 2#16) (pushed hi lo s) = some (lo &&& keptBits s (s.cpu.sp - 2#16)) := by
  have hsp : ∀ x, peek x (pushed hi lo s) = peek x (memWrite (s.cpu.sp - 2#16) lo (memWrite (s.cpu.sp - 1#16) hi s)) :=
    fun x => peek_congr rfl rfl rfl rfl x
  have hmbc : (memWrite (s.cpu.sp - 1#16) hi s).cart.mbc = s.cart.mbc :=
    memWrite_mbc (programsCart_of_keeps h1 (by decide) (by decide)) hi
  have hnext : (s.cpu.sp - 1#16).toNat = (s.cpu.sp - 2#16).toNat + 1 := by
    have := keeps_iff.1 h2
    have := keeps_iff.1 h1
    bv_omega
  rw [hsp, hsp]
  constructor
  · rw [writeFrame, peek_memWrite_of_keeps h1 (by decide) (by decide)]
    rw [touches_congr (memWrite_params _ _ _) fun _ y => by rw [hmbc]]
    exact touches_next h2 hnext
  · have hk : keeps (memWrite (s.cpu.sp - 1#16) hi s) 2 (s.cpu.sp - 2#16) = true := by
      simpa only [keeps, ramOpen, hmbc, memWrite_params] using h2
    rw [peek_memWrite_of_keeps hk (by decide) (by decide), keptBits, hmbc]
    rfl

/-- Settles O13: the pop reads the two slots as the push left them, and SP comes back. -/
theorem stackRoundTrip : Obligations.StackRoundTrip := by
  intro v s h1 h2
  have hpush : push16 v s = pushed (v.extractLsb' 8 8) (v.extractLsb' 0 8) s := push16_eq v s
  obtain ⟨hhi, hlo⟩ := peek_pushed (v.extractLsb' 8 8) (v.extractLsb' 0 8) h1 h2
  rw [← hpush] at hhi hlo
  have hslot : s.cpu.sp - 2#16 + 1#16 = s.cpu.sp - 1#16 := by bv_omega
  have hback : s.cpu.sp - 2#16 + 2#16 = s.cpu.sp := BitVec.sub_add_cancel _ _
  rw [pop16_eq, push16_sp, memRead_of_peek hlo, hslot, memRead_of_peek hhi, hback]
  exact ⟨rfl, by simp [push16_eq, State.setSp]⟩

/-! ### The overlay along a step -/

/-- A store leaves the overlay or turns it off (20_memory R88). -/
theorem Board.store_overlay (a : Word) (v : Byte) (b : Board) (h : (b.store a v).bus.bootActive = true) :
    b.bus.bootActive = true := by
  by_cases ha : a = 0xFF50#16
  · rw [Board.store, memWrite_bootDisable (congrArg BitVec.toNat ha)] at h
    cases h
  · rwa [Board.store_bootActive ha] at h

theorem Board.Stored.overlay {l : List Word} {b c : Board} (h : Board.Stored l b c) (hc : c.bus.bootActive = true) :
    b.bus.bootActive = true :=
  h.keeps (P := fun d => d.bus.bootActive = true → b.bus.bootActive = true)
    (fun a _ v d hd hs => hd (d.store_overlay a v hs)) id hc

theorem service_overlay {s : State} (h : (service s).bus.bootActive = true) : s.bus.bootActive = true := by
  rcases service_cases s with he | ⟨l, _, _, he⟩ <;> rw [he] at h
  · exact h
  · rw [enterInterrupt_eq] at h
    exact (push16_stored s.cpu.pc (s.setIflag (s.bus.iflag &&& ~~~(1#5 <<< l.bit)))).overlay h

theorem finishStep_overlay {pc0 : Word} {s : State} (h : (finishStep pc0 s).bus.bootActive = true) : s.bus.bootActive = true := by
  have hs := service_overlay h
  simpa [commit_eq, wake_eq, mergeReq, applyEnable_eq] using hs

/-- Settles O18: a step changes the overlay by its stores alone, and no store turns it on. -/
theorem bootOverlay : Obligations.BootOverlay := by
  refine ⟨memWrite_bootDisable rfl, fun s t hstep ht => ?_⟩
  obtain ⟨i, u, hfetch, -, rfl⟩ := step_next hstep
  obtain ⟨-, hbus, -⟩ := nextInstr_frame hfetch
  have heffect := finishStep_overlay ht
  rw [State.setCycles_bus, State.setPc_bus] at heffect
  have hu := (effect_stored i (moveDelay u)).overlay heffect
  simpa [State.board, moveDelay, hbus] using hu

/-! ### The frame of an instruction's stores -/

/-- A state with a board in place of its own. -/
def State.onBoard (s : State) (b : Board) : State := { s with bus := b.bus, cart := b.cart, params := b.params }

theorem peek_of_board {s t : State} {b : Board} (hb : t.board = b) (hi : t.ports.input = s.ports.input) (x : Word) :
    peek x t = peek x (s.onBoard b) :=
  peek_congr (s := s.onBoard b) (congrArg Board.bus hb) (congrArg Board.cart hb) (congrArg Board.params hb) hi x

theorem peek_onBoard_store (s : State) (b : Board) (a : Word) (v : Byte) (x : Word) :
    peek x (s.onBoard (b.store a v)) = peek x (memWrite a v (s.onBoard b)) :=
  (peek_of_board (memWrite_board a v (s.onBoard b)) (memWrite_input a v _) x).symm

/-- The addresses are one address, or two next to each other. -/
def Neighbours (l : List Word) : Prop := ∀ a ∈ l, ∀ b ∈ l, b = a ∨ b = a + 1#16 ∨ a = b + 1#16

theorem neighbours_nil : Neighbours [] := fun _ ha => by cases ha

theorem neighbours_one (a : Word) : Neighbours [a] := by
  intro b hb c hc
  exact .inl ((List.mem_singleton.1 hc).trans (List.mem_singleton.1 hb).symm)

theorem neighbours_two {a b : Word} (h : b = a + 1#16 ∨ a = b + 1#16) : Neighbours [a, b] := by
  intro c hc d hd
  simp only [List.mem_cons, List.not_mem_nil, or_false] at hc hd
  rcases hc with rfl | rfl <;> rcases hd with rfl | rfl
  · exact .inl rfl
  · exact .inr h
  · exact .inr h.symm
  · exact .inl rfl

theorem storedByR8_neighbours (d : R8) (s : State) : Neighbours (storedByR8 d s) := by
  cases d with
  | reg r => exact neighbours_nil
  | ind => exact neighbours_one s.hl

theorem stackSlots_neighbours (s : State) : Neighbours (stackSlots s) := neighbours_two (.inr (by bv_omega))

/-- No instruction stores at two addresses further apart than one. -/
theorem storesAt_neighbours (i : Instr) (s : State) : Neighbours (storesAt i s) := by
  cases i
  case ldRR d _ | ldRN d _ | ldRHl d | incR d | decR d | rlcR d | rrcR d | rlR d | rrR d | slaR d | sraR d | swapR d | srlR d |
      resBR _ d | setBR _ d =>
    exact storedByR8_neighbours d s
  case ldNnSp nn => exact neighbours_two (.inl rfl)
  case pushRr | pushAf | callNn | rst => exact stackSlots_neighbours s
  case callCcNn cc nn =>
    simp only [storesAt]
    split
    · exact stackSlots_neighbours s
    · exact neighbours_nil
  case ldHlR | ldHlN | ldBcA | ldDeA | ldNnA | ldhNA | ldhCA | ldHliA | ldHldA | incHl | decHl | rlcHl | rrcHl | rlHl | rrHl |
      slaHl | sraHl | swapHl | srlHl | resBHl | setBHl =>
    exact neighbours_one _
  all_goals exact neighbours_nil

/-- Neighbours do not lie in the bank registers and in the RAM window at once. -/
theorem Neighbours.not_mixed {l : List Word} (h : Neighbours l) {a b : Word} (ha : a ∈ l) (hb : b ∈ l)
    (hw : 0xA000 ≤ b.toNat ∧ b.toNat ≤ 0xBFFF) : ¬ a.toNat ≤ 0x7FFF := by
  rcases h a ha b hb with rfl | rfl | rfl <;> bv_omega

/-- A store above 0x7FFF writes no bank and no enable. -/
theorem ramTarget_memWrite {a : Word} (h : ¬ a.toNat ≤ 0x7FFF) (v : Byte) (s : State) (y : Word) :
    ramTarget s.params (memWrite a v s).cart.mbc y = ramTarget s.params s.cart.mbc y := by
  unfold memWrite
  split
  case h_1 hr =>
    have hspan : a.toNat ≤ 0xFF ∧ s.bus.bootActive = true := route_spans hr
    omega
  case h_2 hr => exact absurd (route_spans hr) h
  case h_3 hr =>
    unfold cartWriteRam
    split
    case h_4 sel _ => exact ramTarget_setClock ..
    all_goals rfl
  all_goals rfl

/-- A board that the stores so far have left as a state has it: the byte at `x`, the parameters, and, where the list stores to the
RAM window, what an access there reaches. -/
structure Board.Unmoved (s : State) (l : List Word) (x : Word) (b : Board) : Prop where
  peek_eq : peek x (s.onBoard b) = peek x s
  params_eq : b.params = s.params
  target_eq : ∀ a ∈ l, 0xA000 ≤ a.toNat ∧ a.toNat ≤ 0xBFFF → ∀ y,
    ramTarget s.params b.cart.mbc y = ramTarget s.params s.cart.mbc y

/-- A store that moves the RAM window is not followed by one into it, so the next store of the list reaches what it would have
reached at first. -/
theorem Board.Unmoved.store {s : State} {l : List Word} {x : Word} {b : Board} (h : b.Unmoved s l x) (hn : Neighbours l)
    {a : Word} (ha : a ∈ l) (htouch : touches s a x = false) (v : Byte) : (b.store a v).Unmoved s l x where
  peek_eq := by
    have hb : touches (s.onBoard b) a x = touches s a x := touches_congr h.params_eq (h.target_eq a ha) x
    rw [peek_onBoard_store, writeFrame _ _ _ _ (hb.trans htouch), h.peek_eq]
  params_eq := (b.store_params a v).trans h.params_eq
  target_eq := fun a' ha' hw y => by
    have hkeep : ramTarget b.params (b.store a v).cart.mbc y = ramTarget b.params b.cart.mbc y :=
      ramTarget_memWrite (hn.not_mixed ha ha' hw) v b.state y
    rw [← h.target_eq a' ha' hw y, ← h.params_eq, hkeep]

/-- What no store of a list of neighbours can reach, by what each reaches at first, is as before all of them. -/
theorem Board.Stored.peek_eq {s : State} {l : List Word} {c : Board} {x : Word} (h : Board.Stored l s.board c)
    (hn : Neighbours l) (hl : ∀ a ∈ l, touches s a x = false) : peek x (s.onBoard c) = peek x s :=
  (h.keeps (P := Board.Unmoved s l x) (fun a ha v _ hb => hb.store hn ha (hl a ha) v)
    ⟨rfl, rfl, fun _ _ _ _ => rfl⟩).peek_eq

/-- Settles O42: an instruction's stores are those of `storesAt`, which are neighbours, and nothing else of it moves a byte. -/
theorem memoryFrame : Obligations.MemoryFrame := by
  intro i s t x hexec hl
  obtain ⟨-, -, -, -, -, -, -, hinput, -⟩ := engineFrame i s t hexec
  rw [peek_of_board rfl hinput]
  exact (exec_stored hexec).peek_eq (storesAt_neighbours i s) hl

end Sys2Proof.Machine

namespace Sys2Proof.Machine

/-! ### The button register -/

/-- Four bits read off one by one are their concatenation (20_memory R110). -/
theorem nibble_of_flags (p q r t : Bool) : (flagBit p <<< 3) ||| (flagBit q <<< 2) ||| (flagBit r <<< 1) ||| flagBit t =
    (BitVec.ofBool p ++ BitVec.ofBool q ++ BitVec.ofBool r ++ BitVec.ofBool t).setWidth 8 := by
  revert p q r t
  decide

/-- P1 as the spec computes it: the select lines under two ones, and the pressed nibble inverted (20_memory R110). -/
theorem p1_byte (sel : BitVec 2) (pressed : BitVec 4) :
    0b11#2 ++ sel ++ ~~~pressed = 0xC0#8 ||| (sel.setWidth 8 <<< 4) ||| (~~~(pressed.setWidth 8) &&& 0x0F#8) := by
  revert sel pressed
  decide

/-- A group that a 0 selects, and else no group. -/
theorem group_of_select (line : Bool) (group : BitVec 4) :
    (if line = false then group.setWidth 8 else 0#8) = (if line then 0#4 else group).setWidth 8 := by
  cases line <;> rfl

/-- Settles O14: each group is a nibble, and the select lines pick among the two. -/
theorem buttonRegister : Obligations.ButtonRegister := by
  intro sel b dir act chosen
  have hdir : dir = (Buttons.directions b).setWidth 8 := nibble_of_flags ..
  have hact : act = (Buttons.actions b).setWidth 8 := nibble_of_flags ..
  have hchosen : chosen =
      ((if sel.getLsbD 0 then 0#4 else Buttons.directions b) |||
        (if sel.getLsbD 1 then 0#4 else Buttons.actions b)).setWidth 8 := by
    rw [BitVec.setWidth_or, ← group_of_select, ← group_of_select, ← hdir, ← hact]
  rw [hchosen, ← p1_byte]
  rfl

/-! ### The ROM windows and the bank registers -/

theorem romOffset_low {x : Word} (h : x.toNat ≤ 0x3FFF) (p : Params) (mbc : Mbc) : romOffset p mbc x = x.toNat % p.romLen := by
  unfold romOffset
  exact if_pos (Nat.lt_succ_of_le h)

/-- RomOnly has no bank (20_memory R129). -/
theorem cartRead_romOnly (p : Params) (ram : Memory) (x : Word) :
    cartRead p ⟨ram, .romOnly⟩ x = imageByte p.rom (x.toNat % p.romLen) := by
  simp only [cartRead, romOffset, ite_self, rom0Offset]

/-- The two windows of a controller: 0x0000-0x3FFF shows bank 0, and 0x4000-0x7FFF its bank (20_memory R124). -/
theorem cartRead_windows {p : Params} {c : Cart} {bank : Nat} {x : Word}
    (h : 0x3FFF < x.toNat → romOffset p c.mbc x = romAtOffset p.romLen bank x) : cartRead p c x = imageByte p.rom
      (if x.toNat ≤ 0x3FFF then x.toNat % p.romLen else (bank * 0x4000 + (x.toNat - 0x4000)) % p.romLen) := by
  split
  next hlow => rw [cartRead, romOffset_low hlow]
  next hhigh => rw [cartRead, h (Nat.lt_of_not_le hhigh), romAtOffset]

/-- MBC1's ROM bank is its two fields side by side in mode 0 (20_memory R131). -/
theorem Mbc1.romBank_eq (m : Mbc1) : m.romBank =
    if m.mode = 0#1 then m.bankHi2.toNat <<< 5 ||| (if m.bankLo5 = 0#5 then 1 else m.bankLo5.toNat)
    else if m.bankLo5 = 0#5 then 1 else m.bankLo5.toNat := by
  have hlo : (if m.bankLo5 = 0#5 then 1 else m.bankLo5.toNat) < 2 ^ 5 := by
    split
    · decide
    · exact m.bankLo5.isLt
  rw [← Nat.shiftLeft_add_eq_or_of_lt hlo, Nat.shiftLeft_eq]
  rfl

/-- MBC5's nine bits are its two fields side by side (20_memory R144). -/
theorem Mbc5.romBank_eq (m : Mbc5) : m.romBank = m.bankHi1.toNat <<< 8 ||| m.bankLo8.toNat := by
  rw [← Nat.shiftLeft_add_eq_or_of_lt m.bankLo8.isLt, Nat.shiftLeft_eq]
  rfl

/-- Settles O15: bank 0 below 0x4000, and above it the bank of each controller. -/
theorem romWindows : Obligations.RomWindows := by
  intro p ram x _ a window
  have hhigh : 0x3FFF < x.toNat → ¬ x.toNat < 0x4000 := by omega
  refine ⟨cartRead_romOnly p ram x, fun m => ⟨?_, rfl⟩, fun m => ?_, fun m => ?_, fun m => ?_⟩ <;>
    refine cartRead_windows fun h => ?_ <;> simp only [romOffset, if_neg (hhigh h)]
  · exact congrArg (romAtOffset p.romLen · x) m.romBank_eq
  · rfl
  · rfl
  · exact congrArg (romAtOffset p.romLen · x) m.romBank_eq

/-- The clock register that a byte from 0x08 selects (20_memory R139). -/
theorem clock_select {v : Byte} (h : 0x08 ≤ v.toNat ∧ v.toNat ≤ 0x0C) :
    (v - 0x08#8).extractLsb' 0 3 = BitVec.ofNat 3 (v.toNat - 0x08) := by
  apply BitVec.eq_of_toNat_eq
  simp only [BitVec.extractLsb'_toNat, BitVec.toNat_sub, BitVec.toNat_ofNat, Nat.shiftRight_zero]
  omega

theorem selectsClock_iff (v : Byte) : selectsClock v = true ↔ 0x08 ≤ v.toNat ∧ v.toNat ≤ 0x0C := by
  simp [selectsClock]

/-- What a write to 0x4000-0x5FFF of MBC3 selects: a clock register, counted from 0x08, or a RAM bank (20_memory R139). -/
theorem Mbc3.select_eq (m : Mbc3) (v : Byte) :
    (if selectsClock v then { m with rtcMode := true, rtcSel := (v - 0x08#8).extractLsb' 0 3 }
      else { m with rtcMode := false, ramBank2 := v.extractLsb' 0 2 }) =
    if 0x08 ≤ v.toNat ∧ v.toNat ≤ 0x0C then { m with rtcMode := true, rtcSel := BitVec.ofNat 3 (v.toNat - 0x08) }
      else { m with rtcMode := false, ramBank2 := v.extractLsb' 0 2 } := by
  simp only [selectsClock_iff]
  split
  next h => rw [clock_select h]
  next => rfl

/-- Settles O16: the table of each controller, with MBC3's selection counted from 0x08. -/
theorem bankRegisters : Obligations.BankRegisters := by
  intro x v _ a on
  refine ⟨rfl, fun m => rfl, fun m => rfl, fun m => ⟨?_, rfl⟩, fun m => rfl⟩
  rw [Mbc.write, Mbc3.write, Mbc3.select_eq]
  rfl

/-! ### The RAM window -/

theorem Rtc.read_write {sel sel' : BitVec 3} (h : sel.toNat < 5) (h' : sel'.toNat < 5) (r : Rtc) (v : Byte) :
    (r.write sel v).read sel' = if sel' = sel then v else r.read sel' := by
  have hsel : (sel' = sel) = (sel'.toNat = sel.toNat) := propext BitVec.toNat_inj.symm
  simp only [Rtc.read, Rtc.write, hsel]
  generalize sel.toNat = k at h
  generalize sel'.toNat = k' at h'
  interval_cases k <;> interval_cases k' <;> rfl

/-- A banked controller's RAM window: a cell of its bank while it is enabled and there is RAM, and else nothing
(20_memory R126, R133, R145). -/
theorem ramTarget_banked {p : Params} {mbc : Mbc} {on : Bool} {bank : Nat} {x : Word}
    (h : ramTarget p mbc x = if on then ramCell p.ramLen bank x else .closed) :
    ramTarget p mbc x =
      if on = true ∧ p.ramLen ≠ 0 then .cell ((bank * 0x2000 + (x.toNat - 0xA000)) % p.ramLen) else .closed := by
  rw [h, ramCell, ramAtOffset]
  by_cases hp : p.ramLen = 0 <;> simp [hp]

/-- Settles O17: for each controller, what its target in the window says of a read and of a write. -/
theorem ramWindow : Obligations.RamWindow := by
  intro p ram x v a cell shut onto
  have hshut : ∀ {mbc}, ramTarget p mbc x = .closed → shut mbc := fun h =>
    ⟨cartReadRam_closed (c := ⟨ram, _⟩) h, cartWriteRam_closed (c := ⟨ram, _⟩) h v⟩
  have honto : ∀ {mbc k}, ramTarget p mbc x = .cell k → onto mbc k := fun h =>
    ⟨cartReadRam_cell (c := ⟨ram, _⟩) h, cartWriteRam_cell (c := ⟨ram, _⟩) h v⟩
  have hbanked : ∀ {mbc bank} {on : Bool}, ramTarget p mbc x = (if on then ramCell p.ramLen bank x else .closed) →
      if on = true ∧ p.ramLen ≠ 0 then onto mbc (cell bank) else shut mbc := by
    intro mbc bank on h
    have ht := ramTarget_banked h
    split
    next hc => exact honto (ht.trans (if_pos hc))
    next hc => exact hshut (ht.trans (if_neg hc))
  refine ⟨?_, fun low _ => ⟨cartRead_romOnly p ram low, rfl⟩, fun m => hbanked rfl, fun m => ?_, fun m => ?_,
    fun m => hbanked rfl, fun r => rfl, fun r sel sel' h h' => r.read_write h h' v⟩
  · have hrom := hbanked (mbc := .romOnly) (bank := 0) (on := true) rfl
    simpa [cell] using hrom
  · split
    next hon =>
      have ht : ramTarget p (.mbc2 m) x = .nibble (a % 512) := if_pos hon
      exact ⟨cartReadRam_nibble (c := ⟨ram, _⟩) ht, cartWriteRam_nibble (c := ⟨ram, _⟩) ht v⟩
    next hoff => exact hshut (if_neg hoff)
  · split
    next hoff => exact hshut (if_neg (by simp [hoff]))
    next hon =>
      have hon : m.ramAndTimerEnabled = true := by simpa using hon
      split
      next hclock =>
        have ht : ramTarget p (.mbc3 m) x = .clock m.rtcSel := by rw [ramTarget, if_pos hon, if_pos hclock]
        exact ⟨cartReadRam_clock (c := ⟨ram, _⟩) ht, cartWriteRam_clock (c := ⟨ram, _⟩) ht v⟩
      next hclock =>
        have ht : ramTarget p (.mbc3 m) x = ramCell p.ramLen m.ramBank2.toNat x := by rw [ramTarget, if_pos hon, if_neg hclock]
        split
        next hlen => exact hshut (ht.trans (if_pos hlen))
        next hlen => exact honto (ht.trans (if_neg hlen))

/-! ### The save game -/

/-- Cutting a byte to what an entry holds twice is cutting it once (20_memory R137). -/
@[simp] theorem Mbc.ramEntry_ramEntry (mbc : Mbc) (v : Byte) : mbc.ramEntry (mbc.ramEntry v) = mbc.ramEntry v := by
  cases mbc with
  | mbc2 m => simp only [Mbc.ramEntry, BitVec.and_assoc, BitVec.and_self]
  | romOnly | mbc1 m | mbc3 m | mbc5 m => rfl

/-- The bytes of a filled RAM. -/
theorem ramByte_ramOf {bytes : List Byte} {k : Nat} (store : Store) (h : k < bytes.length) :
    ramByte store (ramOf 0 bytes) k = bytes.getD k 0#8 := by
  have hget := ramOf_get bytes 0 k h
  rw [Nat.zero_add] at hget
  rw [ramByte, hget]
  rfl

theorem dumpSavegame_of_persists {p : Params} (c : Cart) (h : p.persists = true) :
    dumpSavegame p c = some ((List.range p.ramLen).map fun k => c.mbc.ramEntry (ramByte .cartRam c.ram k)) := if_pos h

/-- A save that is loaded and dumped again comes back, each byte cut to what an entry holds (20_memory R127). -/
theorem dumpSavegame_loadSavegame {p : Params} {bytes : List Byte} (c : Cart) (h : p.persists = true)
    (hl : bytes.length = p.ramLen) : dumpSavegame p (loadSavegame p (some bytes) c) = some (bytes.map c.mbc.ramEntry) := by
  rw [dumpSavegame_of_persists _ h, loadSavegame_of_persists c ⟨h, hl⟩]
  refine congrArg some (List.ext_getElem (by simp [hl]) fun k hk hk' => ?_)
  simp only [List.length_map] at hk'
  rw [List.getElem_map, List.getElem_range, ramByte_ramOf _ (by simpa using hk')]
  simp [hk']

/-- Settles O23: the calls act where the cartridge persists, and a load then fills the buffer that a dump reads. -/
theorem saveGame : Obligations.SaveGame := by
  intro p c bytes
  refine ⟨loadSavegame_mbc p _ c, rfl, ?_⟩
  split
  next hp =>
    obtain ⟨hbattery, hcollaborator, hlen⟩ := hp
    have hpersists := p.persists_iff.2 ⟨hbattery, hlen, hcollaborator⟩
    refine ⟨⟨_, dumpSavegame_of_persists c hpersists, by simp, fun k hk => by simp [hk]⟩, ?_⟩
    split
    next hb => exact dumpSavegame_loadSavegame c hpersists hb
    next hb => exact loadSavegame_of_not_persists c fun h => hb h.2
  next hp =>
    have hpersists : ¬ p.persists = true := fun h => by
      obtain ⟨hbattery, hlen, hcollaborator⟩ := p.persists_iff.1 h
      exact hp ⟨hbattery, hcollaborator, hlen⟩
    exact ⟨loadSavegame_of_not_persists c fun h => hpersists h.1, if_neg hpersists⟩

/-! ### The factory -/

/-- The cells of an image below its start. -/
theorem imageOf_get_below (bytes : List Byte) {lo k : Nat} (h : k < lo) : Memory.get (imageOf lo bytes) k = none := by
  induction bytes generalizing lo with
  | nil => rfl
  | cons v rest ih =>
    unfold imageOf
    split
    · exact ih (by omega)
    · rw [Memory.get, if_neg (by omega)]
      exact ih (by omega)

/-- An image reads as its bytes, those equal to what an unlisted offset reads as included (log entry 3). -/
theorem imageByte_imageOf (bytes : List Byte) (lo k : Nat) : imageByte (imageOf lo bytes) (lo + k) = bytes.getD k 0#8 := by
  induction bytes generalizing lo k with
  | nil => rfl
  | cons v rest ih =>
    cases k with
    | zero =>
      unfold imageOf
      split
      next h =>
        rw [imageByte, Nat.add_zero lo, imageOf_get_below rest (Nat.lt_add_one lo), Option.none_or, ← h]
        rfl
      next => simp [imageByte, Memory.get]
    | succ k =>
      have hk := ih (lo + 1) k
      rw [Nat.add_right_comm, Nat.add_assoc] at hk
      unfold imageOf
      split
      next => exact hk
      next =>
        rw [imageByte, Memory.get, if_neg (by omega)]
        exact hk

section
variable {rom : List Byte} {k : CartType} (hlong : ¬ rom.length < 0x150) (ht : cartType (rom.getD 0x147 0#8) = some k)
include hlong ht

/-- MBC2 ignores the size byte (20_memory R121). -/
theorem readHeader_mbc2 (hk : k.variant = .mbc2) : readHeader rom = .ok (k, 512) := by
  simp only [readHeader, if_neg hlong, ht, if_pos hk, mbc2Entries]

theorem readHeader_sized {n : Nat} (hk : k.variant ≠ .mbc2) (hc : ramSize (rom.getD 0x149 0#8) = some n) :
    readHeader rom = .ok (k, n) := by
  simp only [readHeader, if_neg hlong, ht, if_neg hk, hc]

theorem readHeader_unknownSize (hk : k.variant ≠ .mbc2) (hc : ramSize (rom.getD 0x149 0#8) = none) :
    readHeader rom = .error (.unknownRamSize (rom.getD 0x149 0#8)) := by
  simp only [readHeader, if_neg hlong, ht, if_neg hk, hc]

end

theorem readHeader_unknownType {rom : List Byte} (hlong : ¬ rom.length < 0x150) (ht : cartType (rom.getD 0x147 0#8) = none) :
    readHeader rom = .error (.unknownType (rom.getD 0x147 0#8)) := by
  simp only [readHeader, if_neg hlong, ht]

/-- A header that reads fixes the variant, the sizes and the images of the session (70_reset R441). -/
theorem construct_of_header {x : Launch} {k : CartType} {n : Nat} (h : readHeader x.rom = .ok (k, n)) :
    ∃ s, construct x = .ok s ∧ s.cart.mbc = Mbc.reset k.variant x.drawnRtc ∧ s.params.ramLen = n ∧ s.params.battery = k.battery ∧
      s.params.hasRtc = k.hasRtc ∧ s.params.romLen = x.rom.length ∧
      (∀ a, a < x.rom.length → imageByte s.params.rom a = x.rom.getD a 0#8) := by
  refine ⟨_, by rw [construct, h], loadSavegame_mbc .., rfl, rfl, rfl, rfl, fun a _ => ?_⟩
  have hrom := imageByte_imageOf x.rom 0 a
  rwa [Nat.zero_add] at hrom

theorem construct_of_header_error {x : Launch} {f : ConstructionFailure} (h : readHeader x.rom = .error f) :
    construct x = .error f := by
  rw [construct, h]

/-- Settles O22: the two tables byte by byte, and a construction for each way the header reads. -/
theorem factory : Obligations.Factory := by
  unfold Obligations.Factory
  intro types sizes
  have htypes : ∀ t : Byte, cartType t = types.lookup t := by decide +revert +zetaReduce
  have hsizes : ∀ c : Byte, ramSize c = sizes.lookup c := by decide +revert +zetaReduce
  refine ⟨htypes, hsizes, fun x => ?_⟩
  intro t c
  rw [← htypes t, ← hsizes c]
  split
  next hshort => exact construct_of_header_error (if_pos hshort)
  next hlong =>
  cases ht : cartType t with
  | none => exact construct_of_header_error (readHeader_unknownType hlong ht)
  | some k =>
    by_cases hk : k.variant = .mbc2
    · simp only [if_pos hk]
      exact construct_of_header (readHeader_mbc2 hlong ht hk)
    · simp only [if_neg hk]
      cases hc : ramSize c with
      | none => exact construct_of_header_error (readHeader_unknownSize hlong ht hk hc)
      | some n => exact construct_of_header (readHeader_sized hlong ht hk hc)

end Sys2Proof.Machine

namespace Sys2Proof.Machine

/-! ### Decoding what is encoded -/

section
variable {i : Instr} {op : Byte} (rest : List Byte)

theorem decode_oneByte (h : op ≠ prefixByte ∧ bytesAfter op = 0 ∧ decodeOpcode false op 0#8 0#16 = some i) :
    decode ([op] ++ rest) = .ok (i, rest) := by
  obtain ⟨hpfx, hlen, hop⟩ := h
  simp only [List.singleton_append, decode, if_neg hpfx, hlen, decodeAs, hop]

theorem decode_prefixed (h : decodeOpcode true op 0#8 0#16 = some i) : decode ([0xCB#8, op] ++ rest) = .ok (i, rest) := by
  simp only [List.cons_append, List.nil_append, decode, prefixByte, if_true, decodeAs, h]

end

/-- An opcode that takes a word takes its low byte first (30_encoding R173). -/
theorem decode_word {op : Byte} {f : Word → Instr}
    (h : ∀ lo hi rest, decode ([op, lo, hi] ++ rest) = .ok (f (wordOf hi lo), rest))
    (nn : Word) (rest : List Byte) : decode ([op, loByte nn, hiByte nn] ++ rest) = .ok (f nn, rest) := by
  rw [h, wordOf_bytes]

/-- The decoder reads back each well-formed instruction from its encoding and leaves the bytes after it (30_encoding R166, R174).
A register field takes seven codes, the eighth belongs to the (HL) form; the rest is the table evaluated at the opcode. -/
theorem decode_encode {i : Instr} (h : i.wellFormed = true) (rest : List Byte) : decode (encode i ++ rest) = .ok (i, rest) := by
  cases i
  case ldRR dst src =>
    cases dst with
    | ind => cases h
    | reg dst =>
      cases src with
      | ind => cases h
      | reg src => exact decode_oneByte rest (by cases dst <;> cases src <;> decide)
  case ldRN r _ =>
    cases r with
    | ind => cases h
    | reg r => cases r <;> rfl
  case ldRHl r | ldHlR r | addAR r | adcAR r | subR r | sbcAR r | andR r | xorR r | orR r | cpR r | incR r | decR r =>
    cases r with
    | ind => cases h
    | reg r => exact decode_oneByte rest (by cases r <;> decide)
  case rlcR r | rrcR r | rlR r | rrR r | slaR r | sraR r | swapR r | srlR r =>
    cases r with
    | ind => cases h
    | reg r => exact decode_prefixed rest (by cases r <;> decide)
  case bitBR b r | resBR b r | setBR b r =>
    cases r with
    | ind => cases h
    | reg r => exact decode_prefixed rest (by cases r <;> revert b <;> decide)
  case bitBHl b | resBHl b | setBHl b => exact decode_prefixed rest (by revert b; decide)
  case rst t => exact decode_oneByte rest (by revert t; decide)
  case pushRr qq | popRr qq =>
    cases qq with
    | af => cases h
    | pair p => cases p <;> rfl
  case addHlRr rr | incRr rr | decRr rr => rcases rr with (_ | _ | _) | _ <;> rfl
  case ldRrNn rr nn => rcases rr with (_ | _ | _) | _ <;> exact decode_word (f := .ldRrNn _) (fun _ _ _ => rfl) nn rest
  case jpCcNn cc nn => cases cc <;> exact decode_word (f := .jpCcNn _) (fun _ _ _ => rfl) nn rest
  case callCcNn cc nn => cases cc <;> exact decode_word (f := .callCcNn _) (fun _ _ _ => rfl) nn rest
  case ldANn nn => exact decode_word (f := .ldANn) (fun _ _ _ => rfl) nn rest
  case ldNnA nn => exact decode_word (f := .ldNnA) (fun _ _ _ => rfl) nn rest
  case ldNnSp nn => exact decode_word (f := .ldNnSp) (fun _ _ _ => rfl) nn rest
  case jpNn nn => exact decode_word (f := .jpNn) (fun _ _ _ => rfl) nn rest
  case callNn nn => exact decode_word (f := .callNn) (fun _ _ _ => rfl) nn rest
  case jrCcE cc _ | retCc cc => cases cc <;> rfl
  all_goals rfl

/-! ### Fetching an instruction that is placed -/

theorem decodeAs_rest {pfx : Bool} {op n : Byte} {nn : Word} {l rest : List Byte} {i : Instr}
    (h : decodeAs pfx op n nn l = .ok (i, rest)) : l = rest := by
  unfold decodeAs at h
  split at h <;> cases h
  rfl

/-- The decoder takes one byte and then as many as that byte asks for (30_encoding R170). -/
theorem decode_length {b0 : Byte} {tail rest : List Byte} {i : Instr} (h : decode (b0 :: tail) = .ok (i, rest)) :
    tail.length = bytesAfter b0 + rest.length := by
  simp only [decode] at h
  split at h
  next hpfx =>
    have hone : bytesAfter b0 = 1 := by rw [hpfx]; rfl
    cases tail with
    | nil => cases h
    | cons op l => rw [decodeAs_rest h, hone, List.length_cons, Nat.add_comm]
  next =>
    split at h
    next hlen => rw [decodeAs_rest h, hlen, Nat.zero_add]
    next hlen => rw [← decodeAs_rest h, hlen, List.length_cons, Nat.add_comm]
    next hlen => rw [← decodeAs_rest h, hlen, List.length_cons, List.length_cons, Nat.add_assoc, Nat.add_comm]
    next => cases h

/-- Bytes that the block answers with are read one after the other, and nothing changes (20_memory R94, R101). -/
theorem readBytes_of_peek {bytes : List Byte} {addr : Word} {s : State}
    (h : ∀ k, k < bytes.length → peek (addr + BitVec.ofNat 16 k) s = bytes[k]?) : readBytes bytes.length addr s = (bytes, s) := by
  induction bytes generalizing addr with
  | nil => rfl
  | cons v rest ih =>
    have hv : memRead addr s = (v, s) := memRead_of_peek (by simpa using h 0 (by simp))
    have hrest : readBytes rest.length (addr + 1#16) s = (rest, s) := by
      refine ih fun k hk => ?_
      have hs : addr + 1#16 + BitVec.ofNat 16 k = addr + BitVec.ofNat 16 (k + 1) := by
        rw [BitVec.add_assoc, ← BitVec.ofNat_add, Nat.add_comm]
      simpa [hs] using h (k + 1) (by simpa using hk)
    simp only [List.length_cons, readBytes, hv, hrest]

/-- The fetch is a read of the first byte and of as many more as it asks for (30_encoding R170). -/
theorem fetchBytes_eq_readBytes {pc : Word} {s : State} {n : Nat} (h : bytesAfter (memRead pc s).1 = n) :
    fetchBytes pc s = readBytes (n + 1) pc s := by
  rw [← h]
  rfl

/-- The encoding of an instruction that stands at the PC is what a step fetches, and its instruction is the one that runs. -/
theorem nextInstr_of_placed {s : State} {i : Instr} (hwf : i.wellFormed = true) (hrun : s.cpu.halted = false)
    (hcode : ∀ k, k < (encode i).length → peek (s.cpu.pc + BitVec.ofNat 16 k) s = (encode i)[k]?)
    (homits : s.params.decodeOmits.contains (opcodePair (encode i)) = false) : nextInstr s = .ok (i, s) := by
  have hdecode : decode (encode i) = .ok (i, []) := by simpa using decode_encode hwf []
  have hfetch : fetchBytes s.cpu.pc s = (encode i, s) := by
    cases hbytes : encode i with
    | nil => rw [hbytes] at hdecode; cases hdecode
    | cons b0 tail =>
      rw [hbytes] at hcode hdecode
      have hb0 : memRead s.cpu.pc s = (b0, s) := memRead_of_peek (by simpa using hcode 0 (by simp))
      have hlen : bytesAfter (memRead s.cpu.pc s).1 = tail.length := by rw [hb0]; exact (decode_length hdecode).symm
      rw [fetchBytes_eq_readBytes hlen]
      exact readBytes_of_peek hcode
  simp only [nextInstr, hrun, fetch, hfetch, homits, hdecode]
  rfl

theorem nextInstr_takeInput_of_placed {s : State} {i : Instr} (hwf : i.wellFormed = true) (hrun : s.cpu.halted = false)
    (hcode : ∀ k, k < (encode i).length → peek (s.cpu.pc + BitVec.ofNat 16 k) (takeInput s) = (encode i)[k]?)
    (homits : s.params.decodeOmits.contains (opcodePair (encode i)) = false) :
    nextInstr (takeInput s) = .ok (i, takeInput s) :=
  nextInstr_of_placed hwf (by simpa using hrun) (by simpa using hcode) (by simpa using homits)

/-- Settles O30: the bytes of an encoding decode to its instruction, and the bytes that an entry fixes stand at its PC. -/
theorem stepRunsPlaced : Obligations.StepRunsPlaced := by
  refine (and_iff_left_of_imp fun hplaced pc i rest fixed s hwf hentry homits => ?_).2 fun s i hwf hrun hcode homits => ?_
  · obtain ⟨hrun, rfl, hcode⟩ := hentry.code
    exact hplaced s i hwf hrun hcode homits
  · have hnext := nextInstr_takeInput_of_placed hwf hrun hcode homits
    unfold step
    split
    next f hf => cases hnext.symm.trans hf
    next j u hu =>
      cases hnext.symm.trans hu
      rfl

end Sys2Proof.Machine

namespace Sys2Proof

open Machine

/-! ### The rows of the opcode table -/

/-- Every row of the table, prefixed or not. -/
def allRows : List Row := prefixedRows ++ plainRows

theorem mem_allRows {pfx : Bool} {row : Row} (h : row ∈ if pfx then prefixedRows else plainRows) : row ∈ allRows := by
  cases pfx with
  | true => exact List.mem_append_left plainRows h
  | false => exact List.mem_append_right prefixedRows h

theorem Row.instr_eq_some {row : Row} {op n : Byte} {nn : Word} {i : Instr} (h : row.instr op n nn = some i) :
    row.build op n nn = i ∧ i.wellFormed = true := by
  unfold Row.instr at h
  split at h
  next =>
    split at h
    next hwf => cases h; exact ⟨rfl, hwf⟩
    next => cases h
  next => cases h

/-- What an opcode decodes to is well formed and built by a row. -/
theorem decodeOpcode_eq_some {pfx : Bool} {op n : Byte} {nn : Word} {i : Instr} (h : decodeOpcode pfx op n nn = some i) :
    ∃ row ∈ allRows, row.build op n nn = i ∧ i.wellFormed = true := by
  obtain ⟨row, hrow, hi⟩ := List.exists_of_findSome?_eq_some h
  exact ⟨row, mem_allRows hrow, Row.instr_eq_some hi⟩

theorem wellFormed_of_decodeOpcode {pfx : Bool} {op n : Byte} {nn : Word} {i : Instr} (h : decodeOpcode pfx op n nn = some i) :
    i.wellFormed = true := by
  obtain ⟨-, -, -, hwf⟩ := decodeOpcode_eq_some h
  exact hwf

/-- No row looks at the immediates: they are neither a field nor an excluded value. -/
theorem Row.build_immediates {row : Row} (h : row ∈ allRows) (op n : Byte) (nn : Word) :
    (row.build op n nn).wellFormed = (row.build op 0#8 0#16).wellFormed ∧
      (row.build op n nn).value = (row.build op 0#8 0#16).value := by
  fin_cases h <;> exact ⟨rfl, rfl⟩

theorem Row.instr_value {row : Row} (h : row ∈ allRows) (op n : Byte) (nn : Word) :
    (row.instr op n nn).map Instr.value = (row.instr op 0#8 0#16).map Instr.value := by
  obtain ⟨hwf, hvalue⟩ := row.build_immediates h op n nn
  simp only [Row.instr, hwf]
  split
  next =>
    split
    next => exact congrArg some hvalue
    next => rfl
  next => rfl

/-- The value of an opcode is the same whatever the immediates are (30_encoding R178). -/
theorem decodeOpcode_value (pfx : Bool) (op n : Byte) (nn : Word) :
    (decodeOpcode pfx op n nn).map Instr.value = decodeValue pfx op := by
  rw [decodeValue, decodeOpcode, decodeOpcode, List.map_findSome?, List.map_findSome?, ← List.head?_filterMap,
    ← List.head?_filterMap]
  exact congrArg List.head? (List.filterMap_congr fun _ hrow => Row.instr_value (mem_allRows hrow) op n nn)

/-- The value of the field is the operand that its bits of the opcode byte name (30_encoding R164). -/
def Field.ReadFrom (op : Byte) : Field → Prop
  | .ddd d => d = R8.ofCode (field53 op)
  | .sss r => r = R8.ofCode (field20 op)
  | .rr p => p = R16.ofCode (field54 op)
  | .qq p => p = StkPair.ofCode (field54 op)
  | .cc d => d = Cond.ofCode (field43 op)
  | .ttt t => t = field53 op
  | .bbb b => b = field53 op

theorem Row.fields_readFrom {row : Row} (h : row ∈ allRows) (op n : Byte) (nn : Word) :
    ∀ f ∈ (row.build op n nn).fields, f.ReadFrom op := by
  fin_cases h <;> simp [Instr.fields, Field.ReadFrom]

/-- A row's instruction is given by its fields and its immediates. -/
theorem Row.build_of_fields {row : Row} (h : row ∈ allRows) {op op' : Byte} (n : Byte) (nn : Word)
    (hf : (row.build op n nn).fields = (row.build op' n nn).fields) : row.build op n nn = row.build op' n nn := by
  revert hf
  fin_cases h <;> simp [Instr.fields]

/-- The rule of the instructions that the row gives. -/
def Row.rule (row : Row) : Nat := (row.build 0#8 0#8 0#16).rule

theorem Row.build_rule {row : Row} (h : row ∈ allRows) (op n : Byte) (nn : Word) : (row.build op n nn).rule = row.rule := by
  fin_cases h <;> rfl

/-- Each rule has one row. -/
theorem Row.eq_of_rule {row row' : Row} (h : row ∈ allRows) (h' : row' ∈ allRows) (hr : row.rule = row'.rule) : row = row' := by
  have hnodup : (allRows.map Row.rule).Nodup := by decide
  exact List.inj_on_of_nodup_map hnodup h h' hr

/-- Instructions with the same immediates and one value are the same. -/
theorem decodeOpcode_of_value {pfx pfx' : Bool} {op op' n : Byte} {nn : Word} {i j : Instr}
    (hi : decodeOpcode pfx op n nn = some i) (hj : decodeOpcode pfx' op' n nn = some j) (hv : i.value = j.value) : i = j := by
  obtain ⟨row, hrow, rfl, -⟩ := decodeOpcode_eq_some hi
  obtain ⟨row', hrow', rfl, -⟩ := decodeOpcode_eq_some hj
  have hrule := congrArg Value.rule hv
  simp only [Instr.value, Row.build_rule hrow, Row.build_rule hrow'] at hrule
  obtain rfl := Row.eq_of_rule hrow hrow' hrule
  exact Row.build_of_fields hrow n nn (congrArg Value.fields hv)

/-! ### The encoding of what decodes -/

theorem encode_of_prefixed (op : Byte) : ∀ i ∈ decodeOpcode true op 0#8 0#16, encode i = [prefixByte, op] := by
  decide +revert

theorem encode_of_oneByte {op : Byte} (h : bytesAfter op = 0) : ∀ i ∈ decodeOpcode false op 0#8 0#16, encode i = [op] := by
  decide +revert

theorem encode_of_twoByte {op : Byte} (h : op ∈ twoByteOpcodes) (n : Byte) :
    ∀ i ∈ decodeOpcode false op n 0#16, encode i = [op, n] := by
  intro i hi
  fin_cases h <;> cases hi <;> rfl

theorem encode_of_threeByte {op : Byte} (h : op ∈ threeByteOpcodes) (nn : Word) :
    ∀ i ∈ decodeOpcode false op 0#8 nn, encode i = [op, loByte nn, hiByte nn] := by
  intro i hi
  fin_cases h <;> cases hi <;> rfl

theorem opcodePair_encode (pfx : Bool) (op : Byte) :
    ∀ i ∈ decodeOpcode pfx op 0#8 0#16, opcodePair (encode i) = (pfx, op) := by
  decide +revert

theorem mem_twoByteOpcodes {op : Byte} (hpfx : op ≠ prefixByte) (h : bytesAfter op = 1) : op ∈ twoByteOpcodes := by
  simp only [bytesAfter, if_neg hpfx] at h
  split_ifs at h with hthree htwo
  · cases h
  · exact List.contains_iff_mem.mp htwo

theorem mem_threeByteOpcodes {op : Byte} (h : bytesAfter op = 2) : op ∈ threeByteOpcodes := by
  unfold bytesAfter at h
  split_ifs at h with hpfx hthree htwo
  · cases h
  · exact List.contains_iff_mem.mp hthree
  · cases h

theorem decodeAs_eq_ok {pfx : Bool} {op n : Byte} {nn : Word} {l rest : List Byte} {i : Instr}
    (h : decodeAs pfx op n nn l = .ok (i, rest)) : decodeOpcode pfx op n nn = some i ∧ l = rest := by
  refine ⟨?_, decodeAs_rest h⟩
  unfold decodeAs at h
  split at h
  next hop => cases h; exact hop
  next => cases h

/-- The four shapes of the bytes that decode: a prefixed opcode, and an unprefixed one with no, one or two bytes after it
(30_encoding R170). -/
theorem decode_cases {bytes rest : List Byte} {i : Instr} (h : decode bytes = .ok (i, rest)) :
    (∃ op, bytes = [prefixByte, op] ++ rest ∧ decodeOpcode true op 0#8 0#16 = some i) ∨
    (∃ op, bytesAfter op = 0 ∧ bytes = [op] ++ rest ∧ decodeOpcode false op 0#8 0#16 = some i) ∨
    (∃ op n, op ∈ twoByteOpcodes ∧ bytes = [op, n] ++ rest ∧ decodeOpcode false op n 0#16 = some i) ∨
    (∃ op nn, op ∈ threeByteOpcodes ∧ bytes = [op, loByte nn, hiByte nn] ++ rest ∧ decodeOpcode false op 0#8 nn = some i) := by
  cases bytes with
  | nil => cases h
  | cons b0 tail =>
  simp only [decode] at h
  split at h
  next hpfx =>
    cases tail with
    | nil => cases h
    | cons op l =>
      obtain ⟨hop, rfl⟩ := decodeAs_eq_ok h
      exact .inl ⟨op, by rw [hpfx]; rfl, hop⟩
  next hpfx =>
    split at h
    next hlen =>
      obtain ⟨hop, rfl⟩ := decodeAs_eq_ok h
      exact .inr (.inl ⟨b0, hlen, rfl, hop⟩)
    next n l hlen =>
      obtain ⟨hop, rfl⟩ := decodeAs_eq_ok h
      exact .inr (.inr (.inl ⟨b0, n, mem_twoByteOpcodes hpfx hlen, rfl, hop⟩))
    next lo hi l hlen =>
      obtain ⟨hop, rfl⟩ := decodeAs_eq_ok h
      refine .inr (.inr (.inr ⟨b0, wordOf hi lo, mem_threeByteOpcodes hlen, ?_, hop⟩))
      rw [loByte_wordOf, hiByte_wordOf]
      rfl
    next => cases h

/-- Settles O1: the decoder reads each encoding back. -/
theorem decodeEncode : Obligations.DecodeEncode := fun _ rest hwf => decode_encode hwf rest

/-- Settles O2: for each shape of the bytes, what the opcode decodes to is encoded by them. -/
theorem encodeDecode : Obligations.EncodeDecode := by
  intro bytes rest i h
  obtain ⟨op, rfl, hop⟩ | ⟨op, hlen, rfl, hop⟩ | ⟨op, n, hmem, rfl, hop⟩ | ⟨op, nn, hmem, rfl, hop⟩ := decode_cases h
  all_goals refine ⟨wellFormed_of_decodeOpcode hop, congrArg (· ++ rest) ?_⟩
  · exact (encode_of_prefixed op i hop).symm
  · exact (encode_of_oneByte hlen i hop).symm
  · exact (encode_of_twoByte hmem n i hop).symm
  · exact (encode_of_threeByte hmem nn i hop).symm

/-! ### The value of an opcode -/

theorem decodeValue_fields {pfx : Bool} {op : Byte} {v : Value} (h : decodeValue pfx op = some v) :
    ∀ f ∈ v.fields, f.ReadFrom op := by
  obtain ⟨i, hi, rfl⟩ := Option.map_eq_some_iff.mp h
  obtain ⟨row, hrow, rfl, -⟩ := decodeOpcode_eq_some hi
  exact row.fields_readFrom hrow op 0#8 0#16

/-- The value determines the pair: it determines the instruction without immediates, whose encoding has the pair. -/
theorem decodeValue_inj {pfx pfx' : Bool} {op op' : Byte} {v : Value} (h : decodeValue pfx op = some v)
    (h' : decodeValue pfx' op' = some v) : (pfx, op) = (pfx', op') := by
  obtain ⟨i, hi, rfl⟩ := Option.map_eq_some_iff.mp h
  obtain ⟨j, hj, hv⟩ := Option.map_eq_some_iff.mp h'
  obtain rfl := decodeOpcode_of_value hi hj hv.symm
  rw [← opcodePair_encode pfx op i hi, opcodePair_encode pfx' op' i hj]

theorem decodeOpcode_prefixed_isSome (op : Byte) : (decodeOpcode true op 0#8 0#16).isSome = true := by
  decide +revert

/-- The bytes that are no first byte of an instruction (30_encoding R168). -/
def illegalBytes : List Byte :=
  [0xD3#8, 0xDB#8, 0xDD#8, 0xE3#8, 0xE4#8, 0xEB#8, 0xEC#8, 0xED#8, 0xF4#8, 0xFC#8, 0xFD#8]

/-- The unprefixed opcodes that no row takes are 0xCB and the illegal bytes. -/
theorem decodeOpcode_unprefixed_isSome (op : Byte) :
    (decodeOpcode false op 0#8 0#16).isSome = !(prefixByte :: illegalBytes).contains op := by
  decide +revert

/-- Settles O3: the opcodes that decode are known, so the counts run over the bytes alone; the rows give the value of an opcode. -/
theorem validEncodings : Obligations.ValidEncodings := by
  unfold Obligations.ValidEncodings
  simp only [decodeOpcode_unprefixed_isSome]
  refine ⟨fun op _ => decodeOpcode_prefixed_isSome op, by decide, by decide +kernel, by decide +kernel, by decide, by decide,
    decodeOpcode_value, fun _ _ _ h f hf => ?_, fun _ _ _ _ _ h h' => Prod.mk.inj (decodeValue_inj h h')⟩
  have hread := decodeValue_fields h f hf
  cases f <;> exact hread

/-- Settles O4: each word is decoded by evaluation. -/
theorem decoderWords : Obligations.DecoderWords := ⟨rfl, rfl, rfl, rfl, rfl, rfl, rfl, rfl, rfl⟩

end Sys2Proof

namespace Sys2Proof.Machine

/-! ### Fetching bytes that are no instruction -/

/-- A running step fails when the pair at the PC is left out, or when the bytes there are no instruction (60_exceptions R406). -/
theorem step_decodeFailure {s : State} {bytes : List Byte} (hrun : s.cpu.halted = false)
    (hbytes : (fetchBytes s.cpu.pc (takeInput s)).1 = bytes)
    (h : s.params.decodeOmits.contains (opcodePair bytes) = true ∨ ∃ e, decode bytes = .error e) :
    step s = .fault (decodeFailure (opcodePair bytes) s.cpu.pc) := by
  have hfetch : fetch s.cpu.pc (takeInput s) = .error (decodeFailure (opcodePair bytes) s.cpu.pc) := by
    simp only [fetch, hbytes, takeInput_params]
    split
    next => rfl
    next homits =>
      obtain ⟨e, he⟩ := h.resolve_left homits
      simp only [he]
  have hnext : nextInstr (takeInput s) = .error (decodeFailure (opcodePair bytes) s.cpu.pc) := by
    simpa [nextInstr, hrun] using hfetch
  simp only [step, hnext]

/-- An illegal byte is no instruction, whatever stands after it (30_encoding R168). -/
theorem decode_illegal {op : Byte} (h : op ∈ illegalBytes) (tail : List Byte) : decode (op :: tail) = .error (.unmapped op false) := by
  fin_cases h <;> rfl

/-- An unprefixed opcode at the address is the pair of the bytes there. -/
theorem opcodePair_unprefixed {op : Byte} (h : op ≠ prefixByte) (tail : List Byte) : opcodePair (op :: tail) = (false, op) := by
  cases tail with
  | nil => rfl
  | cons b1 l => exact if_neg h

theorem fetchBytes_of_peek {pc : Word} {s : State} {b0 : Byte} (h : peek pc s = some b0) :
    ∃ tail, (fetchBytes pc s).1 = b0 :: tail := by
  simp only [fetchBytes, memRead_of_peek h]
  exact ⟨_, rfl⟩

/-- The two opcode bytes of a prefixed instruction are read one after the other. -/
theorem fetchBytes_prefixed {pc : Word} {s : State} {op : Byte} (h : peek pc s = some prefixByte)
    (hop : peek (pc + 1#16) s = some op) : (fetchBytes pc s).1 = [prefixByte, op] := by
  have hlen : bytesAfter prefixByte = 1 := rfl
  simp only [fetchBytes, memRead_of_peek h, hlen, readBytes, memRead_of_peek hop]

/-- Settles O32: the bytes at the PC begin with the failing pair, and their fetch fails. -/
theorem decodeFailures : Obligations.DecodeFailures := by
  intro s op hrun
  constructor
  · intro hpeek hpfx hfail
    obtain ⟨tail, hbytes⟩ := fetchBytes_of_peek hpeek
    have hstep := step_decodeFailure hrun hbytes
    rw [opcodePair_unprefixed hpfx] at hstep
    exact hstep (hfail.symm.imp_right fun hillegal => ⟨_, decode_illegal hillegal tail⟩)
  · intro hpeek hop homits
    exact step_decodeFailure hrun (fetchBytes_prefixed hpeek hop) (.inl homits)

end Sys2Proof.Machine

namespace Sys2Proof.Machine

/-! ### Results, read off the tables -/

/-- An instruction that always runs on has the results that its rows of the tables give: its encoding, its default cost and its effect.
The PC it hands over is the one after its bytes. -/
theorem runs_of_effect {i : Instr} {s t : State} (hstop : ∀ n, i ≠ .stop n) (htaken : taken i s.cpu.flags = true)
    (hsucc : successor i s = s.cpu.pc + BitVec.ofNat 16 (encode i).length) (heff : effect i s = t) :
    Runs i (encode i) (defaultCost i true) s t := by
  refine ⟨rfl, rfl, ?_⟩
  rw [exec_eq i s hstop, heff, hsucc, baseCost, htaken]

/-- The address `0xFF00 + n` is the byte 0xFF before `n` (40_load8 R212, R214). -/
theorem highPage_eq_append (n : Byte) : highPage n = 0xFF#8 ++ n := by
  revert n
  decide

/-- Settles O44: the two rows of the table of effects, on register operands. -/
theorem loadRegisters : Obligations.LoadRegisters :=
  fun _ _ _ _ => ⟨runs_of_effect nofun rfl rfl rfl, runs_of_effect nofun rfl rfl rfl⟩

/-- Settles O45: each row of the table of effects is a read into a register, the LDH forms' at an address of the high page. -/
theorem loadsFromMemory : Obligations.LoadsFromMemory := by
  intro s dst n nn
  refine ⟨?ldRHl, ?ldABc, ?ldADe, ?ldANn, ?ldhAN, ?ldhAC, ?ldAHli, ?ldAHld⟩
  all_goals refine runs_of_effect nofun rfl rfl ?_
  case ldhAN => exact congrArg (loadA · s) (highPage_eq_append n)
  case ldhAC => exact congrArg (loadA · s) (highPage_eq_append s.cpu.c)
  all_goals rfl

/-- Settles O46: each row of the table of effects is a write of the byte, the LDH forms' at an address of the high page. -/
theorem storesToMemory : Obligations.StoresToMemory := by
  intro s r n nn
  refine ⟨?ldHlR, ?ldHlN, ?ldBcA, ?ldDeA, ?ldNnA, ?ldhNA, ?ldhCA, ?ldHliA, ?ldHldA⟩
  all_goals refine runs_of_effect nofun rfl rfl ?_
  case ldhNA => exact congrArg (storeA · s) (highPage_eq_append n)
  case ldhCA => exact congrArg (storeA · s) (highPage_eq_append s.cpu.c)
  all_goals rfl

end Sys2Proof.Machine

namespace Sys2Proof.Machine

/-! ### The 16-bit loads -/

theorem sext16_eq_ofInt (e : Byte) : sext16 e = BitVec.ofInt 16 e.toInt := by
  revert e
  decide

/-- The sum of SP and a displacement is the one of the integers, the displacement being signed (41_load16 R244; 43_alu16 R314). -/
theorem addSpDisp_eq (sp : Word) (e : Byte) : addSpDisp sp e = (BitVec.ofInt 16 (sp.toNat + e.toInt), dispFlags sp e) := by
  have hsum : sp + sext16 e = BitVec.ofInt 16 (sp.toNat + e.toInt) := by
    rw [sext16_eq_ofInt, BitVec.ofInt_add, BitVec.ofInt_natCast, BitVec.ofNat_toNat, BitVec.setWidth_eq]
  exact congrArg (·, dispFlags sp e) hsum

/-- Settles O47: each row of the table of effects as it stands, and the displacement's sum over the integers. -/
theorem loads16 : Obligations.Loads16 := by
  intro s p e nn
  refine ⟨?ldPair, ?ldSp, ?ldNnSp, ?ldSpHl, ?ldHlSpE⟩
  all_goals refine runs_of_effect nofun rfl rfl ?_
  case ldHlSpE => rw [effect, addSpDisp_eq]
  all_goals rfl

/-! ### PUSH and POP -/

theorem push16_wordOf (hi lo : Byte) (s : State) : push16 (wordOf hi lo) s = pushed hi lo s := by
  rw [push16_eq, hiByte_wordOf, loByte_wordOf, pushed]

theorem State.setPair_wordOf (s : State) (p : Pair) (hi lo : Byte) :
    s.setPair p (wordOf hi lo) = (s.setReg (Pair.hi p) hi).setReg (Pair.lo p) lo := by
  rw [State.setPair, Cpu.setPair, hiByte_wordOf, loByte_wordOf]
  rfl

theorem State.setAf_wordOf (s : State) (hi lo : Byte) :
    s.setAf (wordOf hi lo) = (s.setReg .a hi).setFlags (byteToFlags lo) := by
  rw [State.setAf, hiByte_wordOf, loByte_wordOf]

/-- A pop gives the word of its two bytes, and the state after both reads. -/
theorem pop16_eq_popped (s : State) : pop16 s = (wordOf (poppedHi s).1 (poppedLo s).1, popped s) := pop16_eq s

/-- Settles O48: the pushed word and the popped one are each the word of two bytes, which the stack and the registers take apart. -/
theorem pushPop : Obligations.PushPop := by
  intro s p
  refine ⟨?pushRr, ?pushAf, ?popAf, ?popRr⟩
  all_goals refine runs_of_effect nofun rfl rfl ?_
  case pushRr => exact push16_wordOf _ _ s
  case pushAf => exact push16_wordOf _ _ s
  case popAf => rw [effect, pop16_eq_popped, State.setAf_wordOf]
  case popRr => rw [effect, pop16_eq_popped, setR16stk, State.setPair_wordOf]

end Sys2Proof.Machine

namespace Sys2Proof.Machine

/-! ### The 8-bit arithmetic, over the integers -/

/-- A byte is 0 exactly when the integer it is cut from is a multiple of 256. -/
theorem ofInt_eq_zero_iff (k : Int) : BitVec.ofInt 8 k = 0#8 ↔ k % 256 = 0 := by
  rw [← BitVec.toNat_inj, BitVec.toNat_ofInt, BitVec.toNat_ofNat]
  omega

theorem ofInt_sub (k l : Int) : BitVec.ofInt 8 (k - l) = BitVec.ofInt 8 k - BitVec.ofInt 8 l := by
  rw [Int.sub_eq_add_neg, BitVec.ofInt_add, BitVec.ofInt_neg, BitVec.sub_eq_add_neg]

theorem ofInt_toNat (v : Byte) : BitVec.ofInt 8 v.toNat = v := by
  rw [BitVec.ofInt_natCast, BitVec.ofNat_toNat, BitVec.setWidth_eq]

theorem flagByte_eq_ofInt (c : Bool) : flagByte c = BitVec.ofInt 8 c.toNat := by
  cases c <;> rfl

/-- The difference of bytes is the one of the integers, and so are its flags (42_alu8 R267, R270, R282). -/
theorem subBytes_eq (a v : Byte) (c : Bool) : subBytes a v c =
    (BitVec.ofInt 8 ((a.toNat : Int) - v.toNat - c.toNat), borrowFlags a.toNat v.toNat c.toNat) := by
  have hdiff : a - v - flagByte c = BitVec.ofInt 8 ((a.toNat : Int) - v.toNat - c.toNat) := by
    rw [ofInt_sub, ofInt_sub, ofInt_toNat, ofInt_toNat, flagByte_eq_ofInt]
  simp only [subBytes, borrowFlags, hdiff, ofInt_eq_zero_iff]

/-- INC is the step by 1, with H from the low nibble before it (42_alu8 R285). -/
theorem incByte_eq (v : Byte) (f : Flags) : incByte v f = stepped v 1 false (decide (v.toNat % 16 = 0x0F)) f := by
  have hsum : v + 1#8 = BitVec.ofInt 8 (v.toNat + 1) := by
    rw [BitVec.ofInt_add, ofInt_toNat]
    rfl
  simp only [incByte, stepped, hsum, ofInt_eq_zero_iff]

/-- DEC is the step by -1, with H from the low nibble before it (42_alu8 R287). -/
theorem decByte_eq (v : Byte) (f : Flags) : decByte v f = stepped v (-1) true (decide (v.toNat % 16 = 0x00)) f := by
  have hdiff : v - 1#8 = BitVec.ofInt 8 (v.toNat + -1) := by
    rw [BitVec.ofInt_add, ofInt_toNat, BitVec.sub_eq_add_neg]
    rfl
  simp only [decByte, stepped, hdiff, ofInt_eq_zero_iff]

/-! ### DAA -/

/-- After an addition both corrections are sums, the second of them untouched by the first: 0x60 is a multiple of 16. -/
theorem decimalAdjusted_add (k : Int) {f : Flags} (hn : f.n = false) : decimalAdjusted k f =
    (k + (if f.c || decide (k > 0x99) then 0x60 else 0) + (if f.h || decide (k % 16 > 0x09) then 0x06 else 0),
      f.c || decide (k > 0x99)) := by
  have hsixty : (k + 0x60) % 16 = k % 16 := by omega
  cases hhigh : f.c || decide (k > 0x99) with
  | true =>
    cases hlow : f.h || decide (k % 16 > 0x09) <;>
      simp [-Bool.or_eq_true, -gt_iff_lt, decimalAdjusted, hn, hhigh, hsixty, hlow]
  | false =>
    obtain ⟨hc, hk⟩ := Bool.or_eq_false_iff.mp hhigh
    cases hlow : f.h || decide (k % 16 > 0x09) <;>
      simp [-Bool.or_eq_true, -gt_iff_lt, -decide_eq_false_iff_not, decimalAdjusted, hn, hc, hk, hlow]

/-- After a subtraction the carry and the half carry alone decide the corrections. -/
theorem decimalAdjusted_sub (k : Int) {f : Flags} (hn : f.n = true) : decimalAdjusted k f =
    (k - (if f.c then 0x60 else 0) - (if f.h then 0x06 else 0), f.c) := by
  cases hc : f.c <;> cases hh : f.h <;> simp [decimalAdjusted, hn, hc, hh]

/-- DAA is its pseudocode over the integers, cut to a byte (42_alu8 R289). -/
theorem daaByte_eq (a : Byte) (f : Flags) : daaByte a f =
    (BitVec.ofInt 8 (decimalAdjusted a.toNat f).1,
      ⟨decide ((decimalAdjusted a.toNat f).1 % 256 = 0), f.n, false, (decimalAdjusted a.toNat f).2⟩) := by
  simp only [← ofInt_eq_zero_iff]
  cases hn : f.n
  · simp only [daaByte, decimalAdjusted_add _ hn, BitVec.ofInt_add, ofInt_toNat, hn, apply_ite (BitVec.ofInt 8)]
    norm_cast
  · simp only [daaByte, decimalAdjusted_sub _ hn, ofInt_sub, ofInt_toNat, hn, apply_ite (BitVec.ofInt 8)]
    rfl

/-! ### Packed decimal -/

/-- The byte with the two decimal digits of a number below 100 in its nibbles. -/
def packedDecimal (k : Nat) : Byte := BitVec.ofNat 8 (k / 10 * 16 + k % 10)

theorem packedDecimal_toNat {k : Nat} (h : k < 100) : (packedDecimal k).toNat = k / 10 * 16 + k % 10 := by
  rw [packedDecimal, BitVec.toNat_ofNat]
  omega

/-- The idea of DAA: digits that were added or subtracted in binary, tens to `t` and units to `u`, become decimal digits by 0x06
for the ten that the units carry (or borrow, where it is negative) and 0x60 for the hundred of the whole. -/
theorem packedDecimal_of_corrected (t u : Int) :
    BitVec.ofInt 8 (t * 16 + u + (t * 10 + u) / 100 * 0x60 + u / 10 * 0x06) = packedDecimal ((t * 10 + u) % 100).toNat := by
  apply BitVec.eq_of_toNat_eq
  rw [packedDecimal_toNat (by omega), BitVec.toNat_ofInt]
  omega

/-- DAA after an addition whose tens sum to `t` and whose units sum to `u` (42_alu8 R261, R289). -/
theorem daaByte_of_sum {t u : Nat} (ht : t ≤ 18) (hu : u ≤ 18) {a : Byte} {f : Flags} (ha : a = BitVec.ofNat 8 (t * 16 + u))
    (hn : f.n = false) (hh : f.h = decide (u > 0x0F)) (hc : f.c = decide (t * 16 + u > 0xFF)) :
    (daaByte a f).1 = packedDecimal ((t * 10 + u) % 100) ∧ (daaByte a f).2.c = decide (100 ≤ t * 10 + u) := by
  have hbyte : a.toNat = (t * 16 + u) % 256 := by rw [ha, BitVec.toNat_ofNat]
  have hlow : (f.h || decide ((a.toNat : Int) % 16 > 0x09)) = decide (10 ≤ u) := by
    rw [hh, hbyte, ← Bool.decide_or, decide_eq_decide]
    omega
  have hhigh : (f.c || decide ((a.toNat : Int) > 0x99)) = decide (100 ≤ t * 10 + u) := by
    rw [hc, hbyte, ← Bool.decide_or, decide_eq_decide]
    omega
  have hsix : (if decide (10 ≤ u) then 0x06 else 0) = (u : Int) / 10 * 0x06 := by
    simp only [decide_eq_true_eq]
    omega
  have hsixty : (if decide (100 ≤ t * 10 + u) then 0x60 else 0) = ((t : Int) * 10 + u) / 100 * 0x60 := by
    simp only [decide_eq_true_eq]
    omega
  have hresult := packedDecimal_of_corrected t u
  rw [BitVec.ofInt_add, BitVec.ofInt_add] at hresult
  rw [daaByte_eq, decimalAdjusted_add _ hn, hlow, hhigh, hsix, hsixty, BitVec.ofInt_add, BitVec.ofInt_add, ofInt_toNat, ha]
  exact ⟨by exact_mod_cast hresult, rfl⟩

/-- DAA after a subtraction whose tens differ by `t` and whose units differ by `u` (42_alu8 R267, R289). -/
theorem daaByte_of_difference {t u : Int} (ht : -9 ≤ t ∧ t ≤ 9) (hu : -9 ≤ u ∧ u ≤ 9) {a : Byte} {f : Flags}
    (ha : a = BitVec.ofInt 8 (t * 16 + u)) (hn : f.n = true) (hh : f.h = decide (u < 0)) (hc : f.c = decide (t * 16 + u < 0)) :
    (daaByte a f).1 = packedDecimal ((t * 10 + u) % 100).toNat ∧ (daaByte a f).2.c = decide (t * 10 + u < 0) := by
  have hcarry : f.c = decide (t * 10 + u < 0) := by
    rw [hc, decide_eq_decide]
    omega
  have hsix : (if decide (u < 0) then 0x06 else 0) = -(u / 10 * 0x06) := by
    simp only [decide_eq_true_eq]
    omega
  have hsixty : (if decide (t * 10 + u < 0) then 0x60 else 0) = -((t * 10 + u) / 100 * 0x60) := by
    simp only [decide_eq_true_eq]
    omega
  have hresult := packedDecimal_of_corrected t u
  rw [BitVec.ofInt_add, BitVec.ofInt_add] at hresult
  rw [daaByte_eq, decimalAdjusted_sub _ hn, hcarry, hh, hsix, hsixty, sub_neg_eq_add, sub_neg_eq_add, BitVec.ofInt_add,
    BitVec.ofInt_add, ofInt_toNat, ha]
  exact ⟨hresult, rfl⟩

section
variable {x y : Nat} (hx : x < 100) (hy : y < 100)
include hx hy

/-- DAA after ADD of packed numbers: their digits add apart, each to at most 18. -/
theorem daaByte_of_packed_add :
    let p := alu .add (packedDecimal x) (packedDecimal y) false
    (daaByte p.1 p.2).1 = packedDecimal ((x + y) % 100) ∧ (daaByte p.1 p.2).2.c = decide (100 ≤ x + y) := by
  have hsum : (x / 10 + y / 10) * 10 + (x % 10 + y % 10) = x + y := by omega
  rw [← hsum]
  apply daaByte_of_sum (by omega) (by omega) <;>
    simp only [alu, addBytes, packedDecimal_toNat hx, packedDecimal_toNat hy, Bool.toNat_false, decide_eq_decide]
  case ha =>
    congr 1
    omega
  case hh | hc => omega

/-- DAA after SUB of packed numbers: their digits subtract apart, each to at least -9 and at most 9. -/
theorem daaByte_of_packed_sub :
    let p := alu .sub (packedDecimal x) (packedDecimal y) false
    (daaByte p.1 p.2).1 = packedDecimal ((100 + x - y) % 100) ∧ (daaByte p.1 p.2).2.c = decide (x < y) := by
  have hdiff : ((x / 10 : Nat) - (y / 10 : Nat) : Int) * 10 + ((x % 10 : Nat) - (y % 10 : Nat) : Int) = x - y := by omega
  have hmod : (100 + x - y) % 100 = ((x - y : Int) % 100).toNat := by omega
  have hborrow : x < y ↔ (x - y : Int) < 0 := by omega
  simp only [hmod, hborrow, ← hdiff]
  apply daaByte_of_difference (by omega) (by omega) <;>
    simp only [alu, subBytes_eq, borrowFlags, packedDecimal_toNat hx, packedDecimal_toNat hy, Bool.toNat_false, decide_eq_decide]
  case ha =>
    congr 1
    omega
  case hh | hc => omega

end

/-- Settles O53: the digits add or subtract apart, and DAA corrects for what they carry or borrow. -/
theorem decimalArithmetic : Obligations.DecimalArithmetic :=
  fun _ _ hx hy => ⟨daaByte_of_packed_add hx hy, daaByte_of_packed_sub hx hy⟩

/-! ### The operations on A -/

theorem State.setReg_a_self (s : State) : s.setReg .a s.cpu.a = s := rfl

theorem accumulate_add (v : Byte) (s : State) : accumulate .add v s = added v 0 s := rfl

theorem accumulate_adc (v : Byte) (s : State) : accumulate .adc v s = added v s.cpu.flags.c.toNat s := rfl

theorem accumulate_sub (v : Byte) (s : State) : accumulate .sub v s = subtracted v 0 s := by
  simp only [accumulate, alu, subBytes_eq, subtracted, Bool.toNat_false]

theorem accumulate_sbc (v : Byte) (s : State) : accumulate .sbc v s = subtracted v s.cpu.flags.c.toNat s := by
  simp only [accumulate, alu, subBytes_eq, subtracted]

/-- CP writes A back, and so the flags alone (42_alu8 R282). -/
theorem accumulate_cp (v : Byte) (s : State) :
    accumulate .cp v s = s.setFlags (borrowFlags s.cpu.a.toNat v.toNat 0) := by
  simp only [accumulate, alu, subBytes_eq, State.setReg_a_self, Bool.toNat_false]

/-- A bitwise operation puts its result in A, and Z from the result's number (42_alu8 R273, R276, R279). -/
theorem accumulate_logic {op : AluOp} {v r : Byte} {h : Bool} {s : State}
    (hop : alu op s.cpu.a v s.cpu.flags.c = logicBytes r h) : accumulate op v s = combined r h s := by
  have hzero : r = 0#8 ↔ r.toNat = 0 := BitVec.toNat_inj.symm
  simp only [accumulate, hop, logicBytes, combined, hzero]

/-- Settles O49: each row of the table of effects is a sum with A; a read leaves the carry that ADC adds. -/
theorem additions : Obligations.Additions := by
  intro s r n
  refine ⟨?addAR, ?addAHl, ?addAN, ?adcAR, ?adcAHl, ?adcAN⟩
  all_goals refine runs_of_effect nofun rfl rfl ?_
  case addAR | addAN => exact accumulate_add _ s
  case addAHl => exact accumulate_add _ _
  case adcAR | adcAN => exact accumulate_adc _ s
  case adcAHl =>
    rw [effect, accumulate_adc, memRead_cpu]
    rfl

/-- Settles O50: each row of the table of effects is a difference from A, or its flags for CP; a read leaves A and the carry. -/
theorem subtractions : Obligations.Subtractions := by
  intro s r n
  refine ⟨?subR, ?subHl, ?subN, ?sbcAR, ?sbcAHl, ?sbcAN, ?cpR, ?cpHl, ?cpN⟩
  all_goals refine runs_of_effect nofun rfl rfl ?_
  case subR | subHl | subN => exact accumulate_sub _ _
  case sbcAR | sbcAN => exact accumulate_sbc _ s
  case sbcAHl =>
    rw [effect, accumulate_sbc, memRead_cpu]
    rfl
  case cpR | cpN => exact accumulate_cp _ s
  case cpHl =>
    rw [effect, accumulate_cp, memRead_cpu]
    rfl

/-- Settles O51: each row of the table of effects is its operation's bitwise result; a read leaves A. -/
theorem logic : Obligations.Logic := by
  intro s r n
  refine ⟨?andR, ?andHl, ?andN, ?xorR, ?xorHl, ?xorN, ?orR, ?orHl, ?orN⟩
  all_goals refine runs_of_effect nofun rfl rfl ?_
  case andHl | xorHl | orHl => exact accumulate_logic (by rw [memRead_cpu]; rfl)
  all_goals exact accumulate_logic rfl

/-- Settles O52: each row of the table of effects steps its operand, adjusts A, or writes flags; a read leaves the flags. -/
theorem stepsAndAdjusts : Obligations.StepsAndAdjusts := by
  intro s dst
  refine ⟨?incR, ?incHl, ?decR, ?decHl, ?daa, ?cpl, ?scf, ?ccf⟩
  all_goals refine runs_of_effect nofun rfl rfl ?_
  case incR => rw [effect, modifyOperand_reg, incByte_eq]
  case incHl =>
    rw [effect, modifyOperand_ind, incByte_eq]
    rfl
  case decR => rw [effect, modifyOperand_reg, decByte_eq]
  case decHl =>
    rw [effect, modifyOperand_ind, decByte_eq]
    rfl
  case daa =>
    rw [effect, modifyOperand_reg, daaByte_eq]
    rfl
  all_goals rfl

end Sys2Proof.Machine

namespace Sys2Proof.Machine

/-! ### The 16-bit arithmetic -/

/-- The sum of words is the one of the naturals, whose carries out of bits 11 and 15 are the flags (43_alu16 R311). -/
theorem addWords_eq (hl v : Word) (f : Flags) : addWords hl v f =
    (BitVec.ofNat 16 (hl.toNat + v.toNat),
      ⟨f.z, false, decide (hl.toNat % 0x1000 + v.toNat % 0x1000 > 0x0FFF), decide (hl.toNat + v.toNat > 0xFFFF)⟩) := by
  have hsum : hl + v = BitVec.ofNat 16 (hl.toNat + v.toNat) := by
    rw [BitVec.ofNat_add, BitVec.ofNat_toNat, BitVec.ofNat_toNat, BitVec.setWidth_eq, BitVec.setWidth_eq]
  rw [addWords, hsum]

/-- Settles O54: each row of the table of effects as it stands, the sums being those of the naturals and the integers. -/
theorem arithmetic16 : Obligations.Arithmetic16 := by
  intro s p e
  refine ⟨?addHlPair, ?addHlSp, ?incPair, ?incSp, ?decPair, ?decSp, ?addSpE⟩
  all_goals refine runs_of_effect nofun rfl rfl ?_
  case addHlPair | addHlSp =>
    rw [effect, addWords_eq]
    rfl
  case addSpE => rw [effect, addSpDisp_eq]
  all_goals rfl

end Sys2Proof.Machine

namespace Sys2Proof.Machine

/-! ### The rotates and shifts, bit by bit -/

/-- The masked bit is the Boolean that the model reads, as a byte. -/
theorem bitOf_eq_flagBit (v : Byte) (k : Nat) : bitOf v k = flagBit (v.getLsbD k) := by
  rw [bitOf, BitVec.and_one_eq_setWidth_ofBool_getLsbD, BitVec.getLsbD_ushiftRight, Nat.add_zero]
  cases v.getLsbD k <;> rfl

theorem flagBit_eq_zero (c : Bool) : decide (flagBit c = 0x00#8) = !c := by cases c <;> rfl

theorem flagBit_eq_one (c : Bool) : decide (flagBit c = 0x01#8) = c := by cases c <;> rfl

theorem flagBit_eq_setWidth (c : Bool) : flagBit c = (BitVec.ofBool c).setWidth 8 := by cases c <;> rfl

/-- Two words in a row are the first moved up past the second. -/
theorem append_eq_shiftLeft_or {n m : Nat} (x : BitVec n) (y : BitVec m) :
    x ++ y = (x.setWidth (n + m) <<< m) ||| y.setWidth (n + m) := by
  rw [← BitVec.setWidth_append_eq_shiftLeft_setWidth_or, BitVec.setWidth_eq]

/-- A byte moved up, with a 0 in bit 0 (44_rotate_shift_bit R333). -/
theorem append_zero_eq_shiftLeft (v : Byte) : v.extractLsb' 0 7 ++ 0#1 = v <<< 1 :=
  (BitVec.shiftLeft_eq_concat_of_lt (x := v) (n := 1) (by decide)).symm

/-- A byte moved down, with a 0 in bit 7 (44_rotate_shift_bit R339). -/
theorem zero_append_eq_shiftRight (v : Byte) : 0#1 ++ v.extractLsb' 1 7 = v >>> 1 :=
  (BitVec.ushiftRight_eq_extractLsb'_of_lt (by decide)).symm

/-- A byte moved up, with a flag in bit 0 (44_rotate_shift_bit R325, R329). -/
theorem append_flag_eq_shiftLeft (v : Byte) (c : Bool) :
    v.extractLsb' 0 7 ++ BitVec.ofBool c = (v <<< 1) ||| flagBit c := by
  have hup : v <<< 1 = (v.extractLsb' 0 7).setWidth 8 <<< 1 := by
    rw [← append_zero_eq_shiftLeft, append_eq_shiftLeft_or, BitVec.setWidth_zero, BitVec.or_zero]
  rw [append_eq_shiftLeft_or, hup, flagBit_eq_setWidth]

/-- A byte moved down, with a flag in bit 7 (44_rotate_shift_bit R327, R331). -/
theorem flag_append_eq_shiftRight (v : Byte) (c : Bool) :
    BitVec.ofBool c ++ v.extractLsb' 1 7 = (v >>> 1) ||| (flagBit c <<< 7) := by
  have hdown : v >>> 1 = (v.extractLsb' 1 7).setWidth 8 := by
    rw [← zero_append_eq_shiftRight, BitVec.setWidth_eq_append (by decide)]
    rfl
  rw [append_eq_shiftLeft_or, hdown, flagBit_eq_setWidth, BitVec.or_comm]

/-- Bit 7 alone, which SRA keeps (44_rotate_shift_bit R335). -/
theorem and_bit7_eq_flagBit (v : Byte) : v &&& 0x80#8 = flagBit (v.getLsbD 7) <<< 7 := by
  have h : v &&& 0x80#8 = _ := BitVec.and_twoPow v 7
  rw [h]
  cases v.getLsbD 7 <;> rfl

/-- SWAP's exchange of the nibbles, by shifts (44_rotate_shift_bit R337). -/
theorem nibbles_append_eq_shifts (v : Byte) :
    v.extractLsb' 0 4 ++ v.extractLsb' 4 4 = ((v &&& 0x0F#8) <<< 4) ||| (v >>> 4) := by
  have hlow : v &&& 0x0F#8 = (v.extractLsb' 0 4).setWidth 8 := by
    rw [BitVec.setWidth_eq_append (by decide), ← BitVec.setWidth_eq_extractLsb' (by decide)]
    exact BitVec.and_setWidth_allOnes 4 4 v
  have hhigh : v >>> 4 = (v.extractLsb' 4 4).setWidth 8 := by
    rw [BitVec.setWidth_eq_append (by decide)]
    exact BitVec.ushiftRight_eq_extractLsb'_of_lt (by decide)
  rw [append_eq_shiftLeft_or, hlow, hhigh]

/-- Each rotate and shift moves the bits as the shifts of its rule do, and its carry is the bit they shift out
(44_rotate_shift_bit R325 to R340). -/
theorem shift_eq_shifted (op : ShiftOp) (v : Byte) (c : Bool) :
    shift op v c = ((shifted op v c).1, decide ((shifted op v c).2 = 0x01#8)) := by
  cases op <;> simp only [shift, shifted, bitOf_eq_flagBit, flagBit_eq_one]
  case rlc | rl => rw [append_flag_eq_shiftLeft]
  case rrc | rr => rw [flag_append_eq_shiftRight]
  case sla => rw [append_zero_eq_shiftLeft]
  case sra => rw [flag_append_eq_shiftRight, and_bit7_eq_flagBit]
  case swap =>
    rw [nibbles_append_eq_shifts]
    rfl
  case srl => rw [zero_append_eq_shiftRight]

/-- The prefixed forms are the shifts of the rules, with their flags (44_rotate_shift_bit R325 to R340). -/
theorem shiftByte_eq (op : ShiftOp) (v : Byte) (f : Flags) :
    shiftByte op v f = ((shifted op v f.c).1, shiftedFlags op v f.c) := by
  have hzero (r : Byte) : r = 0#8 ↔ r.toNat = 0 := BitVec.toNat_inj.symm
  simp only [shiftByte, shift_eq_shifted, shiftedFlags, hzero]

theorem modifyOperand_shiftByte_reg (op : ShiftOp) (r : Reg) (s : State) :
    modifyOperand (shiftByte op) (.reg r) s = shiftedReg op r s := by
  rw [modifyOperand_reg, shiftByte_eq, shiftedReg]

theorem modifyOperand_shiftByte_ind (op : ShiftOp) (s : State) :
    modifyOperand (shiftByte op) .ind s = shiftedHl op s := by
  rw [modifyOperand_ind, shiftByte_eq, shiftedHl]

/-- The one-byte forms shift A alike, and clear Z (44_rotate_shift_bit R321 to R324). -/
theorem modifyOperand_rotateA (op : ShiftOp) (s : State) :
    modifyOperand (rotateA op) (.reg .a) s = rotatedA op s := by
  simp only [modifyOperand_reg, rotateA, shift_eq_shifted, rotatedA, Cpu.get]

/-- Settles O55: each row of the table of effects is a rotate of its operand, which moves the bits as the rule's shifts do. -/
theorem rotates : Obligations.Rotates := by
  intro s r
  refine ⟨?rlca, ?rrca, ?rla, ?rra, ?rlcR, ?rlcHl, ?rrcR, ?rrcHl, ?rlR, ?rlHl, ?rrR, ?rrHl⟩
  all_goals refine runs_of_effect nofun rfl rfl ?_
  case rlca | rrca | rla | rra => exact modifyOperand_rotateA _ s
  case rlcR | rrcR | rlR | rrR => exact modifyOperand_shiftByte_reg _ r s
  case rlcHl | rrcHl | rlHl | rrHl => exact modifyOperand_shiftByte_ind _ s

/-- Settles O56: each row of the table of effects is a shift of its operand, which moves the bits as the rule's shifts do. -/
theorem shifts : Obligations.Shifts := by
  intro s r
  refine ⟨?slaR, ?slaHl, ?sraR, ?sraHl, ?swapR, ?swapHl, ?srlR, ?srlHl⟩
  all_goals refine runs_of_effect nofun rfl rfl ?_
  case slaR | sraR | swapR | srlR => exact modifyOperand_shiftByte_reg _ r s
  case slaHl | sraHl | swapHl | srlHl => exact modifyOperand_shiftByte_ind _ s

/-! ### BIT, RES and SET -/

/-- BIT's Z is the bit's complement: the bit is 0 (44_rotate_shift_bit R341). -/
theorem bitFlags_eq (b : BitVec 3) (v : Byte) (f : Flags) :
    bitFlags b v f = ⟨decide (bitOf v b.toNat = 0#8), false, true, f.c⟩ := by
  rw [bitOf_eq_flagBit, flagBit_eq_zero, bitFlags]

theorem State.setFlags_eq_self {t : State} {f : Flags} (h : t.cpu.flags = f) : t.setFlags f = t := by
  subst h
  rfl

/-- Replacing a register by a function of it, where the flags are handed on (44_rotate_shift_bit R343, R345). -/
theorem modifyOperand_reg_of_keepsFlags (g : Byte → Byte) (r : Reg) (s : State) :
    modifyOperand (fun v f => (g v, f)) (.reg r) s = s.setReg r (g (s.cpu.get r)) :=
  State.setFlags_eq_self (Cpu.set_flags ..)

/-- Replacing the byte at HL by a function of it, where the flags are handed on (44_rotate_shift_bit R344, R346). -/
theorem modifyOperand_ind_of_keepsFlags (g : Byte → Byte) (s : State) :
    modifyOperand (fun v f => (g v, f)) .ind s = memWrite s.hl (g (memRead s.hl s).1) (memRead s.hl s).2 := by
  rw [modifyOperand_ind]
  exact State.setFlags_eq_self (by rw [memWrite_cpu, memRead_cpu])

/-- Settles O57: BIT reads its operand and writes the flags alone; RES and SET write their operand and leave the flags as they stood. -/
theorem bits : Obligations.Bits := by
  intro s r b
  refine ⟨?bitBR, ?bitBHl, ?resBR, ?resBHl, ?setBR, ?setBHl⟩
  all_goals refine runs_of_effect nofun rfl rfl ?_
  case bitBR | bitBHl =>
    rw [effect, bitFlags_eq]
    rfl
  case resBR => exact modifyOperand_reg_of_keepsFlags (clearBit b) r s
  case resBHl => exact modifyOperand_ind_of_keepsFlags (clearBit b) s
  case setBR => exact modifyOperand_reg_of_keepsFlags (setBit b) r s
  case setBHl => exact modifyOperand_ind_of_keepsFlags (setBit b) s

end Sys2Proof.Machine

namespace Sys2Proof.Machine

/-! ### Results of a transfer of control, read off the tables -/

/-- An instruction has the results that its rows of the tables give: its encoding, its default cost, its effect and the PC it hands over. -/
theorem completes_of_effect {i : Instr} {b : Bool} {s t : State} {target : Word} (hstop : ∀ n, i ≠ .stop n)
    (htaken : taken i s.cpu.flags = b) (hsucc : successor i s = target) (heff : effect i s = t) :
    Completes i (encode i) b (defaultCost i b) s t target := by
  refine ⟨rfl, rfl, ?_⟩
  rw [exec_eq i s hstop, heff, hsucc, baseCost, htaken]

/-- A transfer whose rows of the tables ask one condition has the results of both their branches. -/
theorem branches_of_effect {i : Instr} {b : Bool} {s t : State} {target : Word} (hstop : ∀ n, i ≠ .stop n)
    (htaken : taken i s.cpu.flags = b)
    (hsucc : successor i s = if b then target else s.cpu.pc + BitVec.ofNat 16 (encode i).length)
    (heff : effect i s = if b then t else s) :
    Branches i (encode i) b (defaultCost i true) (defaultCost i false) s t target := by
  cases b <;> exact completes_of_effect hstop htaken hsucc heff

/-! ### The jumps -/

/-- The target of a relative jump is the sum of the integers, the displacement being signed (45_control R364). -/
theorem relative_eq_ofInt (e : Byte) (s : State) : relative e s = BitVec.ofInt 16 ((s.cpu.pc.toNat : Int) + 2 + e.toInt) := by
  rw [relative, sext16_eq_ofInt, BitVec.ofInt_add, BitVec.ofInt_add, BitVec.ofInt_natCast, BitVec.ofNat_toNat, BitVec.setWidth_eq]
  rfl

/-- Settles O58: each row of the tables as it stands, taken and not taken, and the relative target over the integers. -/
theorem jumps : Obligations.Jumps := by
  intro s cc e nn
  refine ⟨?jpNn, ?jpCcNn, ?jpHl, ?jrE, ?jrCcE⟩
  case jpNn => exact completes_of_effect nofun rfl rfl rfl
  case jpCcNn => exact branches_of_effect nofun rfl rfl (ite_self s).symm
  case jpHl => exact completes_of_effect nofun rfl rfl rfl
  case jrE => exact completes_of_effect nofun rfl (relative_eq_ofInt e s) rfl
  case jrCcE =>
    rw [← relative_eq_ofInt]
    exact branches_of_effect nofun rfl rfl (ite_self s).symm

/-! ### The calls, returns and restarts -/

/-- A pushed word is its two bytes, the high one first (20_memory R91). -/
theorem push16_eq_pushed (v : Word) (s : State) : push16 v s = pushed (v.extractLsb' 8 8) (v.extractLsb' 0 8) s := push16_eq v s

/-- The vector of a restart is the field shifted left by three bits (45_control R371). -/
theorem restartVector_eq_shiftLeft (t : BitVec 3) : BitVec.ofNat 16 (8 * t.toNat) = BitVec.ofNat 16 (t.toNat <<< 3) := by
  rw [Nat.shiftLeft_eq, Nat.mul_comm]

/-- Settles O59: a call's return address is pushed as its two bytes, and a return goes to the word of the two popped bytes. -/
theorem callsAndReturns : Obligations.CallsAndReturns := by
  intro s cc t nn holds after back
  have hcall (k : Word) : push16 (s.cpu.pc + k) s = after k := push16_eq_pushed _ s
  have hpop : (pop16 s).2 = popped s := congrArg Prod.snd (pop16_eq_popped s)
  refine ⟨?callNn, ?callCcNn, ?ret, ?retCc, ?reti, ?rst⟩
  case callNn => exact completes_of_effect nofun rfl rfl (hcall _)
  case callCcNn => exact branches_of_effect nofun rfl rfl (by rw [effect, hcall])
  case ret => exact completes_of_effect nofun rfl rfl hpop
  case retCc => exact branches_of_effect nofun rfl rfl (by rw [effect, hpop])
  case reti => exact completes_of_effect nofun rfl rfl (congrArg (·.setIme true) hpop)
  case rst => exact completes_of_effect nofun rfl (restartVector_eq_shiftLeft t) (hcall _)

end Sys2Proof.Machine

namespace Sys2Proof.Machine

/-! ### The system instructions -/

/-- STOP has an encoding and no meaning: running it is the refusal, at the PC it stands at (46_system R393). -/
theorem exec_stop (n : Byte) (s : State) : exec (.stop n) s = .refused (.unmodelled 0x10#8 s.cpu.pc) := rfl

/-- Moving the EI delay leaves the PC (60_exceptions R401, step 4a). -/
theorem moveDelay_pc (s : State) : (moveDelay s).cpu.pc = s.cpu.pc := rfl

/-- Settles O33: a fetch leaves the PC, and so does the moving delay, so the step is refused where the instruction stands. -/
theorem stopRefused : Obligations.StopRefused := by
  intro n s
  refine ⟨rfl, exec_stop n s, fun u hfetch => ?_⟩
  have hpc : u.cpu.pc = s.cpu.pc := by rw [(nextInstr_frame hfetch).1, takeInput_cpu]
  simp only [step, hfetch, exec_stop, moveDelay_pc, hpc]

/-- Settles O60: each row of the table of effects as it stands; EI's turns on `P_EI_DELAY`. -/
theorem systemControl : Obligations.SystemControl := by
  intro s
  refine ⟨?nop, ?halt, ?di, ?ei⟩
  all_goals exact runs_of_effect nofun rfl rfl rfl

end Sys2Proof.Machine

namespace Sys2Proof.Machine

/-! ### The step, from a fetch to its stages -/

/-- A running engine runs what the bytes at the PC decode to, where their pair is in `P_DECODE_SET` (60_exceptions R401, steps 1
to 3). -/
theorem nextInstr_of_decode {s : State} {i : Instr} {rest : List Byte} (hrun : s.cpu.halted = false)
    (hdecode : decode (fetchBytes s.cpu.pc s).1 = .ok (i, rest))
    (homits : s.params.decodeOmits.contains (opcodePair (fetchBytes s.cpu.pc s).1) = false) :
    nextInstr s = .ok (i, (fetchBytes s.cpu.pc s).2) := by
  simp only [nextInstr, hrun, fetch, homits, hdecode]
  rfl

/-- Settles O29: the fetch answers the decoded instruction, and the step is then `exec` and the stages by definition. -/
theorem stepRunsDecoded : Obligations.StepRunsDecoded := by
  intro s i rest hrun hdecode homits
  have hcpu := takeInput_cpu s
  have hnext : nextInstr (takeInput s) = .ok (i, (fetchBytes (takeInput s).cpu.pc (takeInput s)).2) :=
    nextInstr_of_decode (rest := rest) (by rwa [hcpu]) (by rwa [hcpu]) (by rwa [hcpu, takeInput_params])
  rw [hcpu] at hnext
  unfold step
  split
  next f hf => cases hnext.symm.trans hf
  next j u hu =>
    cases hnext.symm.trans hu
    rfl

/-! ### The lines that are pending -/

/-- The mask of the three lines is 0 where none of their bits is set. -/
theorem lineMask_eq_zero (v : Byte) :
    decide (v &&& 0x07#8 = 0x00#8) = !(v.getLsbD 0 || v.getLsbD 1 || v.getLsbD 2) := by
  decide +revert

/-- No line is pending where `ie & if_ & 0x07` is 0 (60_exceptions R401, step 6). -/
theorem pendingMask_eq_zero (s : State) :
    decide (s.bus.ie &&& s.bus.iflag.setWidth 8 &&& 0x07#8 = 0x00#8) = !s.anyPending := by
  rw [lineMask_eq_zero]
  simp [State.anyPending, State.pending, Line.bit]

theorem mergeReq_eq (s : State) :
    mergeReq s = { s with bus := { s.bus with iflag := s.bus.iflag ||| s.ports.input.req.setWidth 5 } } := rfl

/-- Settles O31: the stages by definition, and the mask of the lines for the waking. -/
theorem engineStages : Obligations.EngineStages := by
  intro s pc0 i rest
  refine ⟨fun h => ?_, fun h => ?_, rfl, applyEnable_eq s, mergeReq_eq s, ?_, commit_eq pc0 s⟩
  · simp only [takeInput, h]
  · simp only [takeInput, h]
  · rw [pendingMask_eq_zero, wake_eq]

/-! ### The evaluator -/

/-- Taking a line's interrupt is its entry: the pushed PC is its two bytes, the high one first (60_exceptions R405). -/
theorem enterInterrupt_eq_entered (l : Line) (s : State) : enterInterrupt l s = entered l.bit l.vector s := by
  simp only [enterInterrupt, push16_eq]
  rfl

/-- The evaluator asks the three lines in the order of their bits (60_exceptions R410). -/
theorem firstPending_eq (s : State) : s.firstPending =
    if requested 0 s then some .vblank
    else if requested 1 s then some .lcdStat
    else if requested 2 s then some .timer
    else none :=
  rfl

/-- The evaluator enters the first requested line, where `ime` is set (60_exceptions R405, R410, R411). -/
theorem service_eq (s : State) : service s =
    if s.cpu.ime = false then s
    else if requested 0 s = true then entered 0 0x0040#16 s
    else if requested 1 s = true then entered 1 0x0048#16 s
    else if requested 2 s = true then entered 2 0x0050#16 s
    else s := by
  unfold service
  cases s.cpu.ime with
  | false => rfl
  | true =>
    simp only [firstPending_eq, enterInterrupt_eq_entered]
    cases requested 0 s
    · cases requested 1 s
      · cases requested 2 s <;> rfl
      · rfl
    · rfl

/-- An entry leaves the port `cycles` and sets the surcharge to 12 (60_exceptions R405). -/
theorem entered_ports (k : Nat) (vector : Word) (s : State) :
    (entered k vector s).ports.cycles = s.ports.cycles ∧ (entered k vector s).ports.surcharge = 12 := by
  simp [entered, pushed]

theorem service_cycles (s : State) : (service s).ports.cycles = s.ports.cycles := by
  rcases service_cases s with hs | ⟨l, -, -, hs⟩
  · rw [hs]
  · rw [hs, enterInterrupt_eq_entered, (entered_ports ..).1]

/-- The surcharge is 12 where a line is taken, and else it stays (60_exceptions R401, step 8). -/
theorem service_surcharge (s : State) : (service s).ports.surcharge =
    if s.cpu.ime && (requested 0 s || requested 1 s || requested 2 s) then 12 else s.ports.surcharge := by
  rw [service_eq]
  cases s.cpu.ime
  · rfl
  · cases requested 0 s
    · cases requested 1 s
      · cases requested 2 s
        · rfl
        · exact (entered_ports ..).2
      · exact (entered_ports ..).2
    · exact (entered_ports ..).2

/-- Settles O35: the stages by definition, the order of the lines, and what an entry sets on the ports. -/
theorem interruptEntry : Obligations.InterruptEntry := by
  refine ⟨finishStep_eq, service_eq, fun s hs => ⟨service_cycles s, ?_⟩⟩
  rw [State.reported, service_cycles, service_surcharge, hs]

/-! ### A halted step -/

/-- A halted engine runs HALT, and reads nothing (60_exceptions R402). -/
theorem nextInstr_of_halted {s : State} (h : s.cpu.halted = true) : nextInstr s = .ok (.halt, s) := if_pos h

theorem State.setHalted_eq_self {s : State} {b : Bool} (h : s.cpu.halted = b) : s.setHalted b = s := by
  subst h
  rfl

theorem State.setPc_eq_self {s : State} {v : Word} (h : s.cpu.pc = v) : s.setPc v = s := by
  subst h
  rfl

/-- The evaluator does nothing where no line is pending (60_exceptions R405). -/
theorem service_of_not_pending {s : State} (h : s.anyPending = false) : service s = s := by
  rcases service_cases s with hs | ⟨l, -, hl, -⟩
  · exact hs
  · simp only [State.anyPending, Bool.or_eq_false_iff] at h
    simp [State.firstPending, h] at hl

/-- A halted step before the engine looks at the lines: the EI delay has moved and acted, the requests are merged, and the cost is
HALT's (60_exceptions R402). -/
def State.dozed (s : State) : State := (mergeReq (applyEnable (moveDelay (takeInput s)))).setCycles (s.params.cost .halt)

theorem State.dozed_eq (s : State) : s.dozed =
    { s with
      cpu := { s.cpu with ime := s.cpu.ime || s.cpu.eiPending, eiPending := false, enableAfter := false },
      bus := { s.bus with iflag := s.bus.iflag ||| (takeInput s).ports.input.req.setWidth 5 },
      ports := { (takeInput s).ports with cycles := s.params.cost .halt } } := by
  obtain ⟨hcpu, hbus, hcart, hparams⟩ := takeInput_frame s
  simp only [State.dozed, applyEnable_eq, mergeReq_eq, moveDelay, State.setIme, State.setEnableAfter, State.setEiPending,
    State.setCycles, hcpu, hbus, hcart, hparams]

/-- A halted engine takes its next PC where a line wakes it (60_exceptions R401, steps 6 and 7). -/
theorem commit_wake_of_pending {s : State} (pc0 : Word) (h : s.cpu.halted = true) (hp : s.anyPending = true) :
    commit pc0 (wake s) = s.setHalted false := by
  simp [commit, wake, h, hp]

/-- A halted engine keeps its PC where no line wakes it (60_exceptions R401, steps 6 and 7). -/
theorem commit_wake_of_not_pending {s : State} (pc0 : Word) (h : s.cpu.halted = true) (hp : s.anyPending = false) :
    commit pc0 (wake s) = s.setPc pc0 := by
  simp [commit, wake, h, hp]

/-- A halted step: with no line pending the engine stays as it is, and with one it wakes after the HALT (60_exceptions R402). -/
theorem step_of_halted {s : State} (h : s.cpu.halted = true) : step s = .next
    (if s.dozed.anyPending then service ((s.dozed.setPc (s.cpu.pc + 1#16)).setHalted false) else s.dozed) := by
  have hnext := nextInstr_of_halted ((congrArg Cpu.halted (takeInput_cpu s)).trans h)
  have hhalted : s.dozed.cpu.halted = true := by rw [State.dozed_eq]; exact h
  have hpc : s.dozed.cpu.pc = s.cpu.pc := by rw [State.dozed_eq]
  have hparams : (moveDelay (takeInput s)).params = s.params := takeInput_params s
  have hmerged (x : Word) : mergeReq (applyEnable ((((moveDelay (takeInput s)).setHalted true).setPc x).setCycles
      (s.params.cost .halt))) = s.dozed.setPc x := by
    rw [← State.setHalted_eq_self hhalted, State.dozed, applyEnable_eq, applyEnable_eq]
    rfl
  rw [step_of_nextInstr hnext nofun, finishStep_eq]
  simp only [effect, successor, baseCost, taken, moveDelay_pc, takeInput_cpu, hparams, hmerged]
  have hmoved : (s.dozed.setPc (s.cpu.pc + 1#16)).cpu.halted = true := hhalted
  cases hp : s.dozed.anyPending with
  | true => rw [commit_wake_of_pending _ hmoved hp, if_pos rfl]
  | false =>
    have hstill : commit s.cpu.pc (wake (s.dozed.setPc (s.cpu.pc + 1#16))) = s.dozed :=
      (commit_wake_of_not_pending _ hmoved hp).trans (State.setPc_eq_self hpc)
    rw [hstill, service_of_not_pending hp, if_neg Bool.false_ne_true]

/-- Settles O34: the step of a halted engine, its inputs from the script or free, and the mask for the pending lines. -/
theorem haltedStep : Obligations.HaltedStep := by
  intro s h received flags still
  have htake : (takeInput s).ports = { received.2 with input := received.1, ext := [], cycles := 0, surcharge := 0 } := by
    simp only [takeInput, received]
    cases s.ports.inputs <;> rfl
  have hstill : s.dozed = still := by
    rw [State.dozed_eq, htake]
  have hmask : (s.bus.ie &&& flags.setWidth 8 &&& 0x07#8 = 0x00#8) ↔ still.anyPending = false := by
    simpa using congrArg (· = true) (pendingMask_eq_zero still)
  refine ⟨?_, fun hcycles => by simp [Params.cost, hcycles, defaultCost]⟩
  rw [step_of_halted h, hstill]
  simp only [hmask]
  cases still.anyPending <;> rfl

end Sys2Proof.Machine

namespace Sys2Proof.Machine

/-! ### Every instruction completes -/

/-- Settles O38: `exec` is the effect with the successor and the cost of the instruction's rule, for every instruction but STOP. -/
theorem completion : Obligations.Completion :=
  fun i s hstop => ⟨_, exec_eq i s hstop, rfl, rfl, rfl⟩

/-! ### The delay of EI -/

/-- Where an instruction other than STOP is fetched, `exec` of it answers, and the step is that answer with the stages after it. -/
theorem exec_of_nextInstr {s u : State} {i : Instr} (h : nextInstr (takeInput s) = .ok (i, u)) (hstop : ∀ n, i ≠ .stop n) :
    ∃ v, exec i (moveDelay u) = .next v ∧ step s = .next (finishStep s.cpu.pc v) :=
  ⟨_, exec_eq i (moveDelay u) hstop, step_of_nextInstr h hstop⟩

/-- The evaluator does nothing while `ime` is false (60_exceptions R405). -/
theorem service_of_not_ime {s : State} (h : s.cpu.ime = false) : service s = s := by
  simp [service, h]

theorem State.setEnableAfter_eq_self {s : State} {b : Bool} (h : s.cpu.enableAfter = b) : s.setEnableAfter b = s := by
  subst h
  rfl

/-- With interrupts off and no delay under way, the stages merge the requests, wake the engine and commit the PC, and no more. -/
theorem finishStep_of_not_ime {s : State} (pc0 : Word) (hime : s.cpu.ime = false) (hafter : s.cpu.enableAfter = false) :
    finishStep pc0 s = commit pc0 (wake (mergeReq s)) := by
  have hkeep : applyEnable s = s := by
    simp [applyEnable, hafter, State.setEnableAfter_eq_self]
  rw [finishStep_eq, hkeep]
  exact service_of_not_ime (by simpa [commit_eq, wake_eq, mergeReq_eq] using hime)

/-- Settles O36: the delay that EI armed is the field that the next step moves, and DI clears it before it acts. -/
theorem enableDelay : Obligations.EnableDelay := by
  intro s u i hfetch hstop
  obtain ⟨v, hexec, hstep⟩ := exec_of_nextInstr hfetch hstop
  obtain ⟨hcpu, -, -, hparams, -⟩ := nextInstr_frame hfetch
  rw [takeInput_cpu] at hcpu
  rw [takeInput_params] at hparams
  obtain ⟨-, -, -, -, hafter, -⟩ := engineFrame i _ v hexec
  refine ⟨v, hexec, hstep, ?after, ?di, ?ei, ?atOnce⟩
  case after =>
    intro hpending hdi
    have hv : v.cpu.enableAfter = true := (hafter hdi).trans (by rw [moveDelay, hcpu, hpending]; rfl)
    rw [applyEnable_eq, hv]
    exact Bool.or_true _
  all_goals
    rintro rfl
    rw [exec_next hexec]
  case di =>
    rw [finishStep_of_not_ime _ rfl rfl]
    simp [commit_eq, wake_eq, mergeReq_eq, effect, moveDelay, hcpu]
  case ei =>
    intro hdelay
    simp +contextual [applyEnable_eq, effect, moveDelay, hcpu, hparams, hdelay]
  case atOnce =>
    intro hdelay
    simp [applyEnable_eq, effect, moveDelay, hparams, hdelay]

end Sys2Proof.Machine

namespace Sys2Proof.Machine

/-! ### The run of a launch -/

theorem runFrom_atExit {e : Word} {s : State} (k : Nat) (h : atExit e s = true) : runFrom k e s = .ended s := by
  cases k <;> exact if_pos h

theorem runFrom_of_next {e : Word} {s t : State} (k : Nat) (h : atExit e s = false) (hstep : step s = .next t) :
    runFrom (k + 1) e s = runFrom k e t := by
  simp [runFrom, h, hstep]

theorem runFrom_of_fault {e : Word} {s : State} {f : Fault} (k : Nat) (h : atExit e s = false) (hstep : step s = .fault f) :
    runFrom (k + 1) e s = .ofFault f := by
  simp [runFrom, h, hstep]

theorem runFrom_of_refused {e : Word} {s : State} {r : Refusal} (k : Nat) (h : atExit e s = false) (hstep : step s = .refused r) :
    runFrom (k + 1) e s = .refused r := by
  simp [runFrom, h, hstep]

/-- The pairs that the full table maps are all prefixed ones, and the unprefixed ones but 0xCB and the illegal bytes
(30_encoding R167, R168). -/
theorem decodeValue_isSome (pfx : Bool) (op : Byte) :
    (decodeValue pfx op).isSome = (pfx || !(prefixByte :: illegalBytes).contains op) := by
  rw [decodeValue, Option.isSome_map]
  cases pfx
  · exact decodeOpcode_unprefixed_isSome op
  · exact decodeOpcode_prefixed_isSome op

/-- A failure at a pair that the full table does not map faults the run (60_exceptions R432). -/
theorem ofFault_of_illegal {op : Byte} (h : op ∈ illegalBytes) (pc : Word) :
    Run.ofFault (.decodeFailure op false pc) = .faulted (.decodeFailure op false pc) := by
  simp [Run.ofFault, decodeValue_isSome, h]

/-- A failure at a pair that the full table maps refuses the run (60_exceptions R432). -/
theorem ofFault_of_mapped {op : Byte} {pfx : Bool} (h : pfx = true ∨ op ∉ prefixByte :: illegalBytes) (pc : Word) :
    Run.ofFault (.decodeFailure op pfx pc) = .refused (.leftOut op pfx pc) := by
  have hmapped : (decodeValue pfx op).isSome = true := by
    simpa [decodeValue_isSome] using h
  simp [Run.ofFault, hmapped]

/-- A step is refused where the byte at the PC is STOP's opcode, whatever the byte after it is (60_exceptions R407). -/
theorem step_of_stop {s : State} (hrun : s.cpu.halted = false) (hpeek : peek s.cpu.pc (takeInput s) = some 0x10#8)
    (homits : s.params.decodeOmits.contains (false, 0x10#8) = false) : step s = .refused (.unmodelled 0x10#8 s.cpu.pc) := by
  have hlen : bytesAfter 0x10#8 = 1 := rfl
  have hbytes : ∃ n, (fetchBytes s.cpu.pc (takeInput s)).1 = [0x10#8, n] := by
    simp [fetchBytes, memRead_of_peek hpeek, hlen, readBytes]
  obtain ⟨n, hbytes⟩ := hbytes
  have hcpu := takeInput_cpu s
  refine (stopRefused n s).2.2 (fetchBytes s.cpu.pc (takeInput s)).2 ?_
  rw [← hcpu] at hbytes ⊢
  refine nextInstr_of_decode (rest := []) (by rwa [hcpu]) ?_ ?_
  · rw [hbytes]
    exact decode_encode (i := .stop n) rfl []
  · rw [hbytes, takeInput_params]
    exact homits

/-! ### The exit loop -/

/-- With interrupts off, no delay under way and the engine running, the stages merge the requests and do no more. -/
theorem finishStep_of_running {s : State} (pc0 : Word) (hime : s.cpu.ime = false) (hafter : s.cpu.enableAfter = false)
    (hrun : s.cpu.halted = false) : finishStep pc0 s = mergeReq s := by
  have hrun' : (mergeReq s).cpu.halted = false := hrun
  rw [finishStep_of_not_ime pc0 hime hafter]
  simp [wake, commit, hrun']

theorem State.setEiPending_eq_self {s : State} {b : Bool} (h : s.cpu.eiPending = b) : s.setEiPending b = s := by
  subst h
  rfl

/-- With no delay under way, moving the delay clears `enable_after` and does no more (60_exceptions R401, step 4a). -/
theorem moveDelay_of_not_pending {s : State} (h : s.cpu.eiPending = false) : moveDelay s = s.setEnableAfter false := by
  rw [moveDelay, h]
  exact State.setEiPending_eq_self h

/-- `JR -2` goes to its own address (45_control R364). -/
theorem successor_exitLoop (s : State) : successor (.jrE 0xFE#8) s = s.cpu.pc := by
  have hback : 2#16 + sext16 0xFE#8 = 0#16 := by decide
  rw [successor, BitVec.add_assoc, hback, BitVec.add_zero]

/-- The step at the exit address: `JR -2` goes back to itself, and the requests are merged (60_exceptions R431). -/
theorem step_of_exit {e : Word} {s : State} (hexit : atExit e s = true) (hplaced : exitPlaced e (takeInput s) = true)
    (hime : s.cpu.ime = false) (hpending : s.cpu.eiPending = false)
    (homits : s.params.decodeOmits.contains (false, 0x18#8) = false) :
    step s = .next (mergeReq (((takeInput s).setEnableAfter false).setCycles (s.params.cost (.jrE 0xFE#8)))) := by
  simp only [atExit, exitPlaced, Bool.and_eq_true, decide_eq_true_eq, Bool.not_eq_true'] at hexit hplaced
  obtain ⟨rfl, hrun⟩ := hexit
  have hnext : nextInstr (takeInput s) = .ok (.jrE 0xFE#8, takeInput s) := by
    refine nextInstr_takeInput_of_placed rfl hrun (fun k hk => ?_) homits
    match k, hk with
    | 0, _ => exact (congrArg (peek · _) (BitVec.add_zero _)).trans hplaced.1
    | 1, _ => exact hplaced.2
  rw [step_of_nextInstr hnext nofun, successor_exitLoop]
  simp only [effect, State.setPc_eq_self, baseCost, taken]
  rw [moveDelay_of_not_pending (by rwa [takeInput_cpu])]
  rw [finishStep_of_running _ (by simpa using hime) rfl (by simpa using hrun)]
  simp only [State.setEnableAfter_params, takeInput_params]

/-! ### The hang -/

/-- No line can become pending in the coming steps: none is enabled, or none is pending and the script asks nothing
(60_exceptions R432). -/
def Hangs (k : Nat) (s : State) : Prop :=
  s.bus.ie &&& 0x07#8 = 0x00#8 ∨
    (s.bus.ie &&& s.bus.iflag.setWidth 8 &&& 0x07#8 = 0x00#8 ∧ k ≤ s.ports.inputs.length ∧
      ∀ i ∈ s.ports.inputs.take k, i.req = 0#3)

/-- No line is pending before a step that hangs, and the rest of the steps hang. -/
theorem Hangs.dozed {k : Nat} {s : State} (h : Hangs (k + 1) s) : s.dozed.anyPending = false ∧ Hangs k s.dozed := by
  have hnone (hmask : s.dozed.bus.ie &&& s.dozed.bus.iflag.setWidth 8 &&& 0x07#8 = 0x00#8) : s.dozed.anyPending = false := by
    simpa [hmask] using (pendingMask_eq_zero s.dozed).symm
  rcases h with henabled | ⟨hmask, hlen, hquiet⟩
  · have hie : s.dozed.bus.ie &&& 0x07#8 = 0x00#8 := by rw [State.dozed_eq]; exact henabled
    refine ⟨hnone ?_, .inl hie⟩
    rw [BitVec.and_assoc, BitVec.and_comm (BitVec.setWidth 8 _), ← BitVec.and_assoc, hie, BitVec.zero_and]
  · cases hinputs : s.ports.inputs with
    | nil => simp [hinputs] at hlen
    | cons i rest =>
      simp only [hinputs, List.length_cons, Nat.add_le_add_iff_right, List.take_succ_cons, List.forall_mem_cons] at hlen hquiet
      have hbus : s.dozed.bus = s.bus := by simp [State.dozed_eq, takeInput, hinputs, hquiet.1]
      have hscript : s.dozed.ports.inputs = rest := by simp [State.dozed_eq, takeInput, hinputs]
      have hmask' : s.dozed.bus.ie &&& s.dozed.bus.iflag.setWidth 8 &&& 0x07#8 = 0x00#8 := by rw [hbus]; exact hmask
      exact ⟨hnone hmask', .inr ⟨hmask', by rwa [hscript], by rw [hscript]; exact hquiet.2⟩⟩

/-- A halted run that hangs goes on, halted at its PC, by induction on the steps (60_exceptions R432). -/
theorem runFrom_of_hangs (e : Word) {k : Nat} {s : State} (hhalted : s.cpu.halted = true) (h : Hangs k s) :
    ∃ t, runFrom k e s = .going t ∧ t.cpu.halted = true ∧ t.cpu.pc = s.cpu.pc := by
  have hexit : ∀ s : State, s.cpu.halted = true → atExit e s = false := fun s hs => by simp [atExit, hs]
  induction k generalizing s with
  | zero => exact ⟨s, if_neg (by simp [hexit s hhalted]), hhalted, rfl⟩
  | succ k ih =>
    obtain ⟨hnone, hrest⟩ := h.dozed
    have hstep : step s = .next s.dozed := by rw [step_of_halted hhalted, hnone]; rfl
    obtain ⟨t, hgoing, hhalted', hpc⟩ := ih (s := s.dozed) (by rw [State.dozed_eq]; exact hhalted) hrest
    exact ⟨t, (runFrom_of_next k (hexit s hhalted) hstep).trans hgoing, hhalted', hpc.trans (by rw [State.dozed_eq])⟩

/-- Settles O25: the exit step returns to its own address, a failed step ends the run by whether the full table maps its pair, and a
hang is kept step by step. -/
theorem exitLoop : Obligations.ExitLoop := by
  refine ⟨?fixed, ?launch, fun k _ _ => runFrom_atExit k, fun k _ _ _ => runFrom_of_next k, ?failed,
    fun k e s hhalted => runFrom_of_hangs e hhalted⟩
  case fixed =>
    intro e s hexit hplaced hime hpending homits
    refine ⟨_, step_of_exit hexit hplaced hime hpending homits, ?_, ?_, takeInput_cart s, ?_⟩
    · simpa [atExit, mergeReq_eq] using hexit
    · simp [mergeReq_eq, State.setEnableAfter]
    · simp [mergeReq_eq]
  case launch =>
    intro k e x s h
    rw [runLaunch, show construct x = .ok s from h]
    rfl
  case failed =>
    intro k e s op hexit hrun illegal run
    obtain ⟨hplain, hprefixed⟩ := decodeFailures s op hrun
    refine ⟨fun hpeek hpfx => ⟨fun hillegal => ?_, fun hlegal homits => ?_, ?_⟩, fun hpeek hop homits => ?_⟩
    · exact (runFrom_of_fault k hexit (hplain hpeek hpfx (.inl hillegal))).trans (ofFault_of_illegal hillegal _)
    · refine (runFrom_of_fault k hexit (hplain hpeek hpfx (.inr homits))).trans (ofFault_of_mapped (.inr ?_) _)
      exact List.not_mem_cons_of_ne_of_not_mem hpfx hlegal
    · rintro rfl homits
      exact runFrom_of_refused k hexit (step_of_stop hrun hpeek homits)
    · exact (runFrom_of_fault k hexit (hprefixed hpeek hop homits)).trans (ofFault_of_mapped (.inl rfl) _)

end Sys2Proof.Machine

namespace Sys2Proof.Machine

/-! ### What looks at the requests

The requests of a step stand on its ports, and only the merge of the stages reads them: everything before it, the fetch and the
effect of the instruction, does the same with other requests (60_exceptions R404). -/

/-- The state with other requests in the step under way. -/
def State.withReq (s : State) (q : BitVec 3) : State :=
  { s with ports := { s.ports with input := { s.ports.input with req := q } } }

section
variable (s : State) (q : BitVec 3)

@[simp] theorem State.withReq_cpu : (s.withReq q).cpu = s.cpu := rfl
@[simp] theorem State.withReq_bus : (s.withReq q).bus = s.bus := rfl
@[simp] theorem State.withReq_cart : (s.withReq q).cart = s.cart := rfl
@[simp] theorem State.withReq_params : (s.withReq q).params = s.params := rfl
@[simp] theorem State.withReq_hl : (s.withReq q).hl = s.hl := rfl
@[simp] theorem State.withReq_af : (s.withReq q).af = s.af := rfl
@[simp] theorem r16_withReq (rr : R16) : r16 rr (s.withReq q) = r16 rr s := rfl
@[simp] theorem r16stk_withReq (qq : StkPair) : r16stk qq (s.withReq q) = r16stk qq s := rfl

@[simp] theorem setReg_withReq (r : Reg) (v : Byte) : (s.withReq q).setReg r v = (s.setReg r v).withReq q := rfl
@[simp] theorem setPair_withReq (p : Pair) (v : Word) : (s.withReq q).setPair p v = (s.setPair p v).withReq q := rfl
@[simp] theorem setFlags_withReq (f : Flags) : (s.withReq q).setFlags f = (s.setFlags f).withReq q := rfl
@[simp] theorem setSp_withReq (v : Word) : (s.withReq q).setSp v = (s.setSp v).withReq q := rfl
@[simp] theorem setPc_withReq (v : Word) : (s.withReq q).setPc v = (s.setPc v).withReq q := rfl
@[simp] theorem setHalted_withReq (b : Bool) : (s.withReq q).setHalted b = (s.setHalted b).withReq q := rfl
@[simp] theorem setIme_withReq (b : Bool) : (s.withReq q).setIme b = (s.setIme b).withReq q := rfl
@[simp] theorem setEiPending_withReq (b : Bool) : (s.withReq q).setEiPending b = (s.setEiPending b).withReq q := rfl
@[simp] theorem setEnableAfter_withReq (b : Bool) : (s.withReq q).setEnableAfter b = (s.setEnableAfter b).withReq q := rfl
@[simp] theorem setCycles_withReq (n : Nat) : (s.withReq q).setCycles n = (s.setCycles n).withReq q := rfl
@[simp] theorem setAf_withReq (v : Word) : (s.withReq q).setAf v = (s.setAf v).withReq q := rfl

/-- P1 shows the buttons of the input and none of its requests (20_memory R110). -/
@[simp] theorem peek_withReq (a : Word) : peek a (s.withReq q) = peek a s := rfl

theorem drawByte_withReq : drawByte (s.withReq q) = ((drawByte s).1, (drawByte s).2.withReq q) := by
  unfold drawByte State.withReq
  simp only
  split <;> rfl

theorem memRead_withReq (a : Word) : memRead a (s.withReq q) = ((memRead a s).1, (memRead a s).2.withReq q) := by
  have harea : extAreaRead a (s.withReq q) = extAreaRead a s := rfl
  unfold memRead
  rw [peek_withReq, harea]
  split
  · rfl
  · split
    · exact drawByte_withReq (s.report _) q
    · exact drawByte_withReq s q

@[simp] theorem memWrite_withReq (a : Word) (v : Byte) : memWrite a v (s.withReq q) = (memWrite a v s).withReq q := by
  unfold memWrite
  simp only [State.withReq_bus]
  split <;> rfl

@[simp] theorem memWrite16_withReq (a v : Word) : memWrite16 a v (s.withReq q) = (memWrite16 a v s).withReq q := by
  simp [memWrite16]

@[simp] theorem push16_withReq (v : Word) : push16 v (s.withReq q) = (push16 v s).withReq q := by simp [push16]

theorem pop16_withReq : pop16 (s.withReq q) = ((pop16 s).1, (pop16 s).2.withReq q) := by
  simp [pop16, memRead_withReq]

theorem r8_withReq (r : R8) : r8 r (s.withReq q) = ((r8 r s).1, (r8 r s).2.withReq q) := by
  cases r
  · rfl
  · exact memRead_withReq s q s.hl

@[simp] theorem setR8_withReq (r : R8) (v : Byte) : setR8 r v (s.withReq q) = (setR8 r v s).withReq q := by
  cases r <;> simp

@[simp] theorem setR16_withReq (rr : R16) (v : Word) : setR16 rr v (s.withReq q) = (setR16 rr v s).withReq q := by
  cases rr <;> rfl

@[simp] theorem setR16stk_withReq (qq : StkPair) (v : Word) : setR16stk qq v (s.withReq q) = (setR16stk qq v s).withReq q := by
  cases qq <;> rfl

@[simp] theorem loadA_withReq (a : Word) : loadA a (s.withReq q) = (loadA a s).withReq q := by
  simp [loadA, memRead_withReq]

@[simp] theorem storeA_withReq (a : Word) : storeA a (s.withReq q) = (storeA a s).withReq q := memWrite_withReq ..

@[simp] theorem accumulate_withReq (op : AluOp) (v : Byte) : accumulate op v (s.withReq q) = (accumulate op v s).withReq q := rfl

@[simp] theorem modifyOperand_withReq (f : Byte → Flags → Byte × Flags) (r : R8) :
    modifyOperand f r (s.withReq q) = (modifyOperand f r s).withReq q := by
  simp [modifyOperand, r8_withReq]

/-- No instruction looks at the requests of its step. -/
theorem effect_withReq (i : Instr) : effect i (s.withReq q) = (effect i s).withReq q := by
  cases i
  case callCcNn | retCc => simp [effect, pop16_withReq, apply_ite (State.withReq · q)]
  case ei => exact (apply_ite (State.withReq · q) (s.params.eiDelay = true) (s.setEiPending true) (s.setIme true)).symm
  all_goals simp [effect, memRead_withReq, r8_withReq, pop16_withReq]

theorem stackTop_withReq : stackTop (s.withReq q) = stackTop s := by simp [stackTop, memRead_withReq]

theorem successor_withReq (i : Instr) : successor i (s.withReq q) = successor i s := by
  cases i
  case ret | reti => exact stackTop_withReq s q
  case retCc => simp only [successor, State.withReq_cpu, stackTop_withReq]
  all_goals rfl

theorem readBytes_withReq (k : Nat) (a : Word) :
    readBytes k a (s.withReq q) = ((readBytes k a s).1, (readBytes k a s).2.withReq q) := by
  induction k generalizing a s with
  | zero => rfl
  | succ k ih => simp only [readBytes, memRead_withReq, ih]

theorem fetchBytes_withReq (pc : Word) : fetchBytes pc (s.withReq q) = ((fetchBytes pc s).1, (fetchBytes pc s).2.withReq q) := by
  simp only [fetchBytes, memRead_withReq, readBytes_withReq]

theorem nextInstr_withReq : nextInstr (s.withReq q) = (nextInstr s).map fun x => (x.1, x.2.withReq q) := by
  simp only [nextInstr, fetch, State.withReq_cpu, State.withReq_params, fetchBytes_withReq]
  split
  · rfl
  · split
    · rfl
    · split <;> rfl

end

/-- Another request in the script of the inputs reaches the step as another request on the ports (60_exceptions R404). -/
theorem takeInput_of_req {s : State} {q q' : BitVec 3} {b : Buttons} {rest : List StepInput}
    (h : s.ports.inputs = ⟨q, b⟩ :: rest) :
    takeInput { s with ports := { s.ports with inputs := ⟨q', b⟩ :: rest } } = (takeInput s).withReq q' := by
  simp [takeInput, h, State.withReq]

theorem takeInput_input {s : State} {i : StepInput} {rest : List StepInput} (h : s.ports.inputs = i :: rest) :
    (takeInput s).ports.input = i := by
  simp only [takeInput, h]

/-! ### What a step with interrupts off does with its requests -/

/-- An instruction that does not enable at once leaves interrupts off, and no delay of a step before (60_exceptions R413). -/
theorem effect_of_off {i : Instr} {s : State} (hreti : i ≠ .reti) (hei : i = .ei → s.params.eiDelay = true)
    (hime : s.cpu.ime = false) (hafter : s.cpu.enableAfter = false) :
    (effect i s).cpu.ime = false ∧ (effect i s).cpu.enableAfter = false := by
  obtain ⟨-, hkeepIme, -, hkeepAfter, -⟩ := effect_engine_frame i s
  by_cases hdi : i = .di
  · subst hdi
    exact ⟨rfl, rfl⟩
  refine ⟨?_, (hkeepAfter hdi).trans hafter⟩
  by_cases hi : i = .ei
  · subst hi
    rw [effect, hei rfl]
    exact hime
  · exact (hkeepIme hdi hi hreti).trans hime

/-- A step with interrupts off and no delay under way, of an instruction that neither halts nor enables at once: the instruction,
and then the requests merged into IF alone (60_exceptions R412, R413). -/
theorem step_of_off {s u : State} {i : Instr} (hfetch : nextInstr (takeInput s) = .ok (i, u)) (hstop : ∀ n, i ≠ .stop n)
    (hhalt : i ≠ .halt) (hreti : i ≠ .reti) (hei : i = .ei → s.params.eiDelay = true) (hime : s.cpu.ime = false)
    (hpending : s.cpu.eiPending = false) :
    step s = .next (mergeReq (((effect i (moveDelay u)).setPc (successor i (moveDelay u))).setCycles
      (baseCost i (moveDelay u)))) := by
  obtain ⟨hcpu, -, -, hparams, -⟩ := nextInstr_frame hfetch
  rw [takeInput_cpu] at hcpu
  rw [takeInput_params] at hparams
  have hrun : s.cpu.halted = false := by
    rcases nextInstr_ok hfetch with ⟨-, hi, -⟩ | ⟨hrun, -⟩
    · exact absurd hi hhalt
    · rwa [takeInput_cpu] at hrun
  obtain ⟨hoff, hafter⟩ := effect_of_off (s := moveDelay u) hreti (fun hi => (congrArg Params.eiDelay hparams).trans (hei hi))
    ((congrArg Cpu.ime hcpu).trans hime) ((congrArg Cpu.eiPending hcpu).trans hpending)
  have hrun' : (effect i (moveDelay u)).cpu.halted = false :=
    ((effect_engine_frame i (moveDelay u)).1 hhalt).trans ((congrArg Cpu.halted hcpu).trans hrun)
  rw [step_of_nextInstr hfetch hstop]
  exact congrArg Host.Outcome.next (finishStep_of_running _ hoff hafter hrun')

/-- Settles O37: the instruction does not look at the requests, so the two runs meet at the merge, which puts them in IF alone. -/
theorem requestIsolation : Obligations.RequestIsolation := by
  intro s t u i q q' b rest hinputs hfetch hhalt hreti hei hime hpending hstep
  have hstop : ∀ n, i ≠ .stop n := by
    obtain ⟨j, w, hj, hstop, -⟩ := step_next hstep
    cases hj.symm.trans hfetch
    exact hstop
  have hfetch' : nextInstr (takeInput { s with ports := { s.ports with inputs := ⟨q', b⟩ :: rest } }) =
      .ok (i, u.withReq q') := by
    rw [takeInput_of_req hinputs, nextInstr_withReq, hfetch]
    rfl
  have hmove : moveDelay (u.withReq q') = (moveDelay u).withReq q' := rfl
  have hcost : baseCost i ((moveDelay u).withReq q') = baseCost i (moveDelay u) := rfl
  have hinput : (effect i (moveDelay u)).ports.input = ⟨q, b⟩ := by
    obtain ⟨-, -, -, -, -, hkeep, -⟩ := effect_engine_frame i (moveDelay u)
    obtain ⟨-, -, -, -, hread, -⟩ := nextInstr_frame hfetch
    exact hkeep.trans (hread.trans (takeInput_input hinputs))
  have ht : t = mergeReq _ := Host.Outcome.next.inj (hstep.symm.trans (step_of_off hfetch hstop hhalt hreti hei hime hpending))
  refine ⟨(effect i (moveDelay u)).bus.iflag, ?_, ?_⟩
  · rw [ht]
    simp [mergeReq_eq, hinput]
  · rw [step_of_off hfetch' hstop hhalt hreti hei hime hpending, hmove, effect_withReq, successor_withReq, hcost, ht]
    simp [mergeReq_eq, State.withReq, State.setPc, State.setCycles, hinput]

end Sys2Proof.Machine

namespace Sys2Proof.Machine

/-! ### The stores that construction fills -/

/-- An image from an offset on lists offsets that rise from there, however many bytes of 0x00 it leaves out (log entry 3). -/
theorem imageOf_rising (bytes : List Byte) (k : Nat) : Memory.rising k (imageOf k bytes) = true := by
  induction bytes generalizing k with
  | nil => rfl
  | cons v rest ih =>
    unfold imageOf
    split
    · exact Memory.rising_mono (Nat.le_succ k) (ih (k + 1))
    · simp [Memory.rising, ih]

theorem imageOf_wf (bytes : List Byte) : (imageOf 0 bytes).wf Image.rest = true := by
  have hlisted : ∀ k, (imageOf k bytes).all (fun c => decide (some c.2 ≠ Image.rest)) = true := by
    induction bytes with
    | nil => exact fun _ => rfl
    | cons v rest ih =>
      intro k
      unfold imageOf
      split
      next => exact ih (k + 1)
      next hv => simp only [List.all_cons, decide_eq_true hv, ih, Bool.and_self]
  rw [Memory.wf, imageOf_rising bytes 0, hlisted 0, Bool.and_self]

/-- An image of 0x00 alone lists nothing (log entry 3). -/
theorem imageOf_replicate_zero (n k : Nat) : imageOf k (List.replicate n 0x00#8) = [] := by
  induction n generalizing k with
  | zero => rfl
  | succ n ih => exact ih (k + 1)

theorem ramOf_rising (bytes : List Byte) (k : Nat) : Memory.rising k (ramOf k bytes) = true := by
  induction bytes generalizing k with
  | nil => rfl
  | cons v rest ih => simp [ramOf, Memory.rising, ih]

/-- A cell of a filled RAM lies at one of its offsets and holds one of its bytes. -/
theorem mem_ramOf {bytes : List Byte} {k : Nat} {c : Host.Cell} (h : c ∈ ramOf k bytes) :
    c.1 < k + bytes.length ∧ c.2 ∈ bytes := by
  induction bytes generalizing k with
  | nil => cases h
  | cons v rest ih =>
    rcases List.mem_cons.1 h with rfl | hrest
    · simp
    · obtain ⟨hlt, hmem⟩ := ih hrest
      exact ⟨by simp only [List.length_cons]; omega, .tail _ hmem⟩

theorem ramOf_within (bytes : List Byte) : (ramOf 0 bytes).within bytes.length = true := by
  have hrest : ∀ c ∈ ramOf 0 bytes, some c.2 ≠ Store.rest := fun c _ => by simp [Store.rest]
  have hlt : ∀ c ∈ ramOf 0 bytes, c.1 < bytes.length := fun c hc => by simpa using (mem_ramOf hc).1
  simp only [Memory.within, Memory.wf, ramOf_rising, List.all_eq_true, decide_eq_true_eq, Bool.and_eq_true]
  exact ⟨⟨trivial, hrest⟩, hlt⟩

/-- What an entry of MBC2 holds has four bits (10_state R63). -/
theorem Mbc.ramEntry_mbc2_lt (m : Mbc2) (v : Byte) : ((Mbc.mbc2 m).ramEntry v).toNat < 16 := by
  rw [Mbc.ramEntry, BitVec.toNat_and]
  exact Nat.and_lt_two_pow v.toNat (n := 4) (by decide)

/-- Filling the RAM with entries of its controller keeps the controller legal (10_state R63). -/
theorem Mbc.legal_ramOf {mbc : Mbc} {ramLen : Nat} {ram : Memory} (bytes : List Byte) (h : mbc.legal ramLen ram = true) :
    mbc.legal ramLen (ramOf 0 (bytes.map mbc.ramEntry)) = true := by
  cases mbc with
  | romOnly | mbc1 m | mbc3 m | mbc5 m => exact h
  | mbc2 m =>
    simp only [Mbc.legal, Bool.and_eq_true, List.all_eq_true, decide_eq_true_eq] at h ⊢
    refine ⟨h.1, fun c hc => ?_⟩
    obtain ⟨v, -, hv⟩ := List.mem_map.1 (mem_ramOf hc).2
    exact hv ▸ Mbc.ramEntry_mbc2_lt m v

/-- Every controller at reset is legal over an empty RAM, MBC2 with its own number of entries (20_memory R137, R139). -/
theorem Mbc.reset_legal {v : Variant} {ramLen : Nat} (rtc : Rtc) (h : v = .mbc2 → ramLen = mbc2Entries) :
    (Mbc.reset v rtc).legal ramLen [] = true := by
  cases v with
  | mbc2 => simp [Mbc.reset, Mbc.legal, h]
  | romOnly | mbc1 | mbc3 | mbc5 => rfl

/-- A save fills the RAM to its size with entries of the controller, or is not loaded: the cartridge stays legal (20_memory R127). -/
theorem loadSavegame_legal {p : Params} {c : Cart} (save : Option (List Byte)) (hw : c.ram.within p.ramLen = true)
    (hl : c.mbc.legal p.ramLen c.ram = true) : (loadSavegame p save c).ram.within p.ramLen = true ∧
    (loadSavegame p save c).mbc.legal p.ramLen (loadSavegame p save c).ram = true := by
  cases save with
  | none => exact ⟨hw, hl⟩
  | some bytes =>
    by_cases h : p.persists = true ∧ bytes.length = p.ramLen
    · rw [loadSavegame_of_persists c h, ← h.2]
      refine ⟨?_, Mbc.legal_ramOf bytes (h.2 ▸ hl)⟩
      simpa using ramOf_within (bytes.map c.mbc.ramEntry)
    · rw [loadSavegame_of_not_persists c h]
      exact ⟨hw, hl⟩

/-! ### A constructed session -/

/-- The block at the start of a session whose header reads so (70_reset R441; `construct_eq_session`). -/
def Launch.session (x : Launch) (t : CartType) (ramLen : Nat) : State where
  cpu := x.start.cpu x.start.pc
  bus := { wram := [], hram := [], ie := 0x00#8, iflag := x.start.iflag, bootActive := x.boot.isSome, p1Select := 0b11#2 }
  cart := loadSavegame (x.params t ramLen) x.save ⟨[], Mbc.reset t.variant x.drawnRtc⟩
  params := x.params t ramLen
  ports := Ports.reset

/-- Construction fails only where the header does not read (70_reset R441). -/
theorem construct_eq_session (x : Launch) : construct x = (readHeader x.rom).map fun k => x.session k.1 k.2 := by
  unfold construct
  cases readHeader x.rom with
  | error f => rfl
  | ok k => rfl

theorem construct_ok_session {x : Launch} {s : State} (h : construct x = .ok s) :
    ∃ t ramLen, readHeader x.rom = .ok (t, ramLen) ∧ s = x.session t ramLen := by
  rw [construct_eq_session] at h
  cases hk : readHeader x.rom with
  | error f =>
    rw [hk] at h
    cases h
  | ok k =>
    rw [hk] at h
    cases h
    exact ⟨k.1, k.2, rfl, rfl⟩

/-- A header that reads has all its bytes, and gives MBC2 its own number of entries (20_memory R121, R122). -/
theorem readHeader_ok {rom : List Byte} {t : CartType} {ramLen : Nat} (h : readHeader rom = .ok (t, ramLen)) :
    0x150 ≤ rom.length ∧ (t.variant = .mbc2 → ramLen = mbc2Entries) := by
  unfold readHeader at h
  split at h
  next => cases h
  next hlong =>
    refine ⟨Nat.le_of_not_lt hlong, ?_⟩
    split at h
    next => cases h
    next =>
      split at h
      next => cases h; exact fun _ => rfl
      next hvariant =>
        split at h
        next => cases h
        next => cases h; exact fun hmbc2 => absurd hmbc2 hvariant

theorem Launch.params_legal {x : Launch} (t : CartType) (ramLen : Nat) (h : 0x150 ≤ x.rom.length) :
    (x.params t ramLen).legal = true := by
  have hboot : ((x.params t ramLen).boot.getD []).wf Image.rest = true := by
    cases hx : x.boot with
    | none => simp only [Launch.params, hx]; rfl
    | some image => simpa [Launch.params, hx] using imageOf_wf image
  simp only [Params.legal, hboot, Bool.and_eq_true, decide_eq_true_eq]
  exact ⟨⟨h, imageOf_wf x.rom⟩, trivial⟩

/-- What construction gives is legal: the images are canonical, WRAM and HRAM empty, the cartridge's RAM empty or loaded whole, and
the overlay on with a boot image alone (70_reset R441). -/
theorem Launch.session_legal {x : Launch} {t : CartType} {ramLen : Nat} (h : readHeader x.rom = .ok (t, ramLen)) :
    (x.session t ramLen).legal = true := by
  obtain ⟨hlong, hmbc2⟩ := readHeader_ok h
  obtain ⟨hram, hmbc⟩ := loadSavegame_legal (p := x.params t ramLen) x.save (c := ⟨[], Mbc.reset t.variant x.drawnRtc⟩) rfl
    (Mbc.reset_legal x.drawnRtc hmbc2)
  rw [State.legal_iff]
  refine ⟨x.params_legal t ramLen hlong, rfl, rfl, hram, hmbc, fun hboot => ?_⟩
  simpa [Launch.session, Launch.params] using hboot

theorem Launch.session_inv {x : Launch} {t : CartType} {ramLen : Nat} (h : readHeader x.rom = .ok (t, ramLen)) :
    (x.session t ramLen).inv = true := by
  rw [State.inv, Launch.session_legal h]
  rfl

theorem Launch.start_pc (x : Launch) : x.start.pc = if x.boot.isSome then 0x0000#16 else x.postBoot.pc :=
  apply_ite Start.pc ..

/-- Settles O28: construction gives the session of a header that reads, which is legal, with the engine running and no enable
under way. -/
theorem constructInvariant : Obligations.ConstructInvariant := by
  intro x s h
  obtain ⟨t, ramLen, hheader, rfl⟩ := construct_ok_session h
  have hinv := Launch.session_inv hheader
  refine ⟨hinv, hinv, x.start_pc, ?_⟩
  simp only [List.forall_mem_cons]
  exact ⟨rfl, rfl, rfl, rfl, rfl, rfl, fun _ hnone => absurd hnone List.not_mem_nil⟩

/-- A ROM of 0x00 alone, long enough for a header, has the header of a RomOnly cartridge without RAM (20_memory R120, R121). -/
theorem readHeader_replicate_zero {n : Nat} (h : 0x150 ≤ n) :
    readHeader (List.replicate n 0x00#8) = .ok (⟨.romOnly, false, false⟩, 0) := by
  have hbyte : ∀ k, (List.replicate n 0x00#8).getD k 0x00#8 = 0x00#8 := fun k => by
    rw [List.getD_eq_getElem?_getD, List.getElem?_replicate]
    split <;> rfl
  refine readHeader_sized ?_ ?_ (by decide) ?_
  · simpa using h
  · rw [hbyte]; rfl
  · rw [hbyte]; rfl

/-- Settles O21: 32 KiB of 0x00 is an image that lists nothing, with the header of a RomOnly cartridge without RAM. -/
theorem resetConstructed : Obligations.ResetConstructed := by
  intro drawn rtc
  rw [AtReset, construct_eq_session, readHeader_replicate_zero (by decide)]
  simp only [Except.map, Launch.session, Launch.params, imageOf_replicate_zero, List.length_replicate]
  rfl

end Sys2Proof.Machine
